-- ==== Sys2Proof/Word.lean ====
section
/-! DEFINITION. The byte and the byte string of fixed length (00_scope.md R4; 10_state.md R8).
All values are unsigned; the engine has no signed value and no sign extension (R4). -/

namespace Sys2Proof

/-- R4: an unsigned 8-bit value; bit `i` has weight `2^i`. -/
abbrev Byte := BitVec 8

/-- R4, R8: a byte string of a fixed length; index 0 is the first byte. -/
abbrev Bytes (n : Nat) := Vector Byte n

/-- R30: the 32-bit value of the host's data bus. -/
abbrev Word32 := BitVec 32

end Sys2Proof
end

