-- ==== Sys2Proof/Machine/Bytes.lean ====
section
/-! DEFINITION. The byte-string primitives of 00_scope.md R5. Concatenation is `++`, `take(x, n)` is `List.take n`. -/

namespace Sys2Proof.Machine

/-- R5 `zeros(n)`. -/
def zeros (n : Nat) : Bytes n := Vector.replicate n 0

/-- R5 `xor(x, y)`. -/
def xorBytes {n : Nat} (x y : Bytes n) : Bytes n := Vector.ofFn fun i => x[i] ^^^ y[i]

/-- R5 `rev(x)`: byte `i` is `x[n-1-i]`. -/
def rev {n : Nat} (x : Bytes n) : Bytes n := Vector.ofFn fun i => x[n - 1 - i.val]

/-- Chunk `j` of a byte string, zero-padded to 16 bytes (R76). -/
def chunk16 (p : List Byte) (j : Nat) : Bytes 16 := Vector.ofFn fun i => p.getD (16 * j + i.val) 0

/-- `ceil(L / 16)`: how many chunks of 16 bytes a string of `L` bytes has (R76, R79). -/
def chunks (L : Nat) : Nat := (L + 15) / 16

/-- R62 `pad16(x, n)`: byte `i` is `x[i]` below `n` and 0x00 from `n` on. -/
def pad16 (x : Bytes 16) (n : Byte) : Bytes 16 := Vector.ofFn fun i => if i.val < n.toNat then x[i] else 0

end Sys2Proof.Machine
end

