-- ==== Sys2Proof/Machine/Aes.lean ====
section
/-! DEFINITION. AES-128 encryption (40_block_cipher.md R49 to R57) and the reversed-byte-order adapter (R58).
PRESUMED (log 11): the spec marks R49 to R57 as general knowledge, FIPS-197; the model takes them as the spec writes
them. -/

namespace Sys2Proof.Machine

/-- R49: multiplication by `x` in GF(2^8), reduced by 0x11B. -/
def xtime (b : Byte) : Byte := (b <<< 1) ^^^ (if b.getLsbD 7 then 0x1B else 0x00)

/-- R49: `xtime` applied `i` times. -/
def xtimePow : Nat → Byte → Byte
  | 0, a => a
  | i + 1, a => xtime (xtimePow i a)

/-- R49: the product in GF(2^8), the XOR of `xtime^i(a)` over the bits `i` of `b` that are 1. -/
def gmul (a b : Byte) : Byte :=
  (List.range 8).foldl (fun acc i => if b.getLsbD i then acc ^^^ xtimePow i a else acc) 0

/-- R49: the inverse in GF(2^8), 0 for 0. -/
def ginv (b : Byte) : Byte :=
  ((List.range 256).map (BitVec.ofNat 8)).find? (fun c => gmul b c == 1) |>.getD 0

/-- R50: the affine map of the S-box, bit by bit, with the constant 0x63. -/
def affine (y : Byte) : Byte :=
  (List.range 8).foldl (fun acc i =>
    let bit := y.getLsbD i ^^ y.getLsbD ((i + 4) % 8) ^^ y.getLsbD ((i + 5) % 8) ^^ y.getLsbD ((i + 6) % 8)
      ^^ y.getLsbD ((i + 7) % 8) ^^ (0x63 : Byte).getLsbD i
    acc ||| ((BitVec.ofBool bit).setWidth 8 <<< i)) 0

/-- R50: the table of the S-box; row = high nibble, the leftmost byte of a row is column 0. -/
def sboxRows : List (BitVec 128) :=
  [0x637c777bf26b6fc53001672bfed7ab76,
   0xca82c97dfa5947f0add4a2af9ca472c0,
   0xb7fd9326363ff7cc34a5e5f171d83115,
   0x04c723c31896059a071280e2eb27b275,
   0x09832c1a1b6e5aa0523bd6b329e32f84,
   0x53d100ed20fcb15b6acbbe394a4c58cf,
   0xd0efaafb434d338545f9027f503c9fa8,
   0x51a3408f929d38f5bcb6da2110fff3d2]
  ++
  [0xcd0c13ec5f974417c4a77e3d645d1973,
   0x60814fdc222a908846eeb814de5e0bdb,
   0xe0323a0a4906245cc2d3ac629195e479,
   0xe7c8376d8dd54ea96c56f4ea657aae08,
   0xba78252e1ca6b4c6e8dd741f4bbd8b8a,
   0x703eb5664803f60e613557b986c11d9e,
   0xe1f8981169d98e949b1e87e9ce5528df,
   0x8ca1890dbfe6426841992d0fb054bb16]

/-- R50: the S-box, read from the table. -/
def sbox (b : Byte) : Byte :=
  (sboxRows.getD (b.toNat / 16) 0).extractLsb' (8 * (15 - b.toNat % 16)) 8

/-- R51: the AES state `s[r][c]`, a list of rows. -/
abbrev AesState := Vector (Bytes 4) 4

/-- The AES state whose byte in row `r` and column `c` is `f r c`. -/
def AesState.build (f : Fin 4 → Fin 4 → Byte) : AesState := Vector.ofFn fun r => Vector.ofFn fun c => f r c

/-- R51: a block is loaded column by column, `s[r][c] <- in[r + 4c]`. -/
def AesState.load (p : Bytes 16) : AesState := .build fun r c => p[r.val + 4 * c.val]

/-- R51: the output is unloaded the same way, `out[r + 4c] <- s[r][c]`. -/
def AesState.unload (s : AesState) : Bytes 16 := Vector.ofFn fun i => s[i.val % 4][i.val / 4]

/-- R52. -/
def subBytes (s : AesState) : AesState := .build fun r c => sbox s[r][c]

/-- R53: `s'[r][c] = s[r][(c + r) mod 4]`. -/
def shiftRows (s : AesState) : AesState := .build fun r c => s[r][(c.val + r.val) % 4]

/-- R54, one column `(a0, a1, a2, a3)`. -/
def mixColumn (a0 a1 a2 a3 : Byte) : Bytes 4 :=
  #v[gmul 2 a0 ^^^ gmul 3 a1 ^^^ a2 ^^^ a3,
     a0 ^^^ gmul 2 a1 ^^^ gmul 3 a2 ^^^ a3,
     a0 ^^^ a1 ^^^ gmul 2 a2 ^^^ gmul 3 a3,
     gmul 3 a0 ^^^ a1 ^^^ a2 ^^^ gmul 2 a3]

/-- R54: every column is mixed. -/
def mixColumns (s : AesState) : AesState :=
  .build fun r c => (mixColumn s[0][c] s[1][c] s[2][c] s[3][c])[r]

/-- R56: a word of the key schedule, 4 bytes. -/
abbrev KeyWord := Bytes 4

/-- R56: the round constants `rc[1..10]`. -/
def roundConstants : List Byte := [0x01, 0x02, 0x04, 0x08, 0x10, 0x20, 0x40, 0x80, 0x1B, 0x36]

/-- R56: the word `t` that `w[i-4]` is XORed with, from `t = w[i-1]`: RotWord, SubWord and the round constant when 4
divides `i`. -/
def scheduleWord (i : Nat) (t : KeyWord) : KeyWord :=
  if i % 4 = 0 then
    #v[sbox t[1] ^^^ roundConstants.getD (i / 4 - 1) 0, sbox t[2], sbox t[3], sbox t[0]]
  else t

/-- R56: one step of the key schedule; `ws` holds `w[i-1]`, `w[i-2]`, ... newest first. -/
def expandStep (ws : List KeyWord) (i : Nat) : List KeyWord :=
  xorBytes (ws.getD 3 (zeros 4)) (scheduleWord i (ws.getD 0 (zeros 4))) :: ws

/-- R56: word `i` of the key, `i` below 4. -/
def keyWord (k : Bytes 16) (i : Fin 4) : KeyWord := Vector.ofFn fun r => k[4 * i.val + r.val]

/-- R56: `KeyExpansion(k)`, the 44 words `w[0..43]`. -/
def keyExpansion (k : Bytes 16) : List KeyWord :=
  ((List.range' 4 40).foldl expandStep [keyWord k 3, keyWord k 2, keyWord k 1, keyWord k 0]).reverse

/-- R55: `AddRoundKey(s, w, j)`. -/
def addRoundKey (s : AesState) (w : List KeyWord) (j : Nat) : AesState :=
  .build fun r c => s[r][c] ^^^ (w.getD (4 * j + c.val) (zeros 4))[r]

/-- R57: one of the rounds 1 to 9. -/
def aesRound (w : List KeyWord) (s : AesState) (j : Nat) : AesState :=
  addRoundKey (mixColumns (shiftRows (subBytes s))) w j

/-- R57: the rounds 0 to 10 on a key schedule. -/
def aesRounds (w : List KeyWord) (s : AesState) : AesState :=
  addRoundKey (shiftRows (subBytes ((List.range' 1 9).foldl (aesRound w) (addRoundKey s w 0)))) w 10

/-- R57: `AES128(k, p)`. -/
def aes128 (k p : Bytes 16) : Bytes 16 := (aesRounds (keyExpansion k) (.load p)).unload

/-- R58: `E_rev(k, b) = rev(AES128(rev(k), rev(b)))`, the one primitive of every command that encrypts. Irreducible, so
that no proof about a command unfolds the cipher unasked. -/
@[irreducible] def eRev (k b : Bytes 16) : Bytes 16 := rev (aes128 (rev k) (rev b))

end Sys2Proof.Machine
end

