-- ==== Sys2Proof/Syntax.lean ====
section
/-! DEFINITION. The commands: one constructor per row of spec/opcode_table.json (30_encoding.md R42, R44). -/

namespace Sys2Proof

/-- R44. No command has an operand field (R42). A reserved row that covers more than one `OP` value keeps the byte,
which stays readable at offset 0x000 (R96); `Instr.WellFormed` says that it belongs to the row. -/
inductive Instr where
  /-- `OP` 0x01: single-block encryption, R61 -/
  | encblk
  /-- `OP` 0x02: XOR of the padded credentials, R64 -/
  | keymat
  /-- `OP` 0x03: session-key derivation, R65 -/
  | kdf
  /-- `OP` 0x04: pairing packet, R67 -/
  | pair
  /-- `OP` 0x05: checksum, R78 -/
  | mac
  /-- `OP` 0x06: payload cipher, R82 -/
  | ctr
  /-- `OP` 0x07: command packet, R86 -/
  | cmdpkt
  /-- `OP` 0x08: new-mesh-name packet, R69 -/
  | reconfName
  /-- `OP` 0x09: new-mesh-password packet, R70 -/
  | reconfPass
  /-- `OP` 0x0A: new-long-term-key packet, R71 -/
  | reconfLtk
  /-- `OP` 0x0B: classify a pairing response, R72 -/
  | rspPair
  /-- `OP` 0x0C: classify a reconfiguration response, R73 -/
  | rspReconf
  /-- `OP` 0x0F: zero key material, operands and results, R97 -/
  | zeroize
  /-- `OP` 0x00, reserved: R96 -/
  | reserved00
  /-- `OP` 0x0D, reserved: R96 -/
  | reserved0D
  /-- `OP` 0x0E, reserved: R96 -/
  | reserved0E
  /-- `OP` 0x10 to 0x1F, reserved: R96 -/
  | reserved10 (op : Byte)
  /-- `OP` 0x20 to 0x3F, reserved: R96 -/
  | reserved20 (op : Byte)
  /-- `OP` 0x40 to 0x7F, reserved: R96 -/
  | reserved40 (op : Byte)
  /-- `OP` 0x80 to 0xFF, reserved: R96 -/
  | reserved80 (op : Byte)
  deriving DecidableEq, Repr

end Sys2Proof
end

