-- ==== Sys2Proof/WellFormed.lean ====
section
/-! DEFINITION. Which instruction terms stand for a word of the opcode table (30_encoding.md R42: a value `v` of `OP`
selects the row with `(v AND mask) = match`). -/

namespace Sys2Proof

/-- The `OP` byte kept by a reserved row's constructor matches that row's mask and match (spec/opcode_table.json);
every other constructor has no operand and is well formed. -/
def Instr.wellFormed : Instr → Bool
  | .reserved10 op => op &&& 0xF0 == 0x10
  | .reserved20 op => op &&& 0xE0 == 0x20
  | .reserved40 op => op &&& 0xC0 == 0x40
  | .reserved80 op => op &&& 0x80 == 0x80
  | .encblk | .keymat | .kdf | .pair | .mac | .ctr | .cmdpkt | .reconfName | .reconfPass | .reconfLtk
  | .rspPair | .rspReconf | .zeroize | .reserved00 | .reserved0D | .reserved0E => true

end Sys2Proof
end

