-- ==== Sys2Proof/Decode.lean ====
section
/-! DEFINITION. The decoder of `CMD8`, total on bytes, and the encoder (30_encoding.md R42 to R45; values from the
table of R44 and spec/opcode_table.json). -/

namespace Sys2Proof

/-- R44: the command an `OP` byte selects. Each of the 256 values selects one row; the last branch is reached exactly
by 0x80 to 0xFF. -/
def decodeOp (op : Byte) : Instr :=
  if op = 0x01 then .encblk
  else if op = 0x02 then .keymat
  else if op = 0x03 then .kdf
  else if op = 0x04 then .pair
  else if op = 0x05 then .mac
  else if op = 0x06 then .ctr
  else if op = 0x07 then .cmdpkt
  else if op = 0x08 then .reconfName
  else if op = 0x09 then .reconfPass
  else if op = 0x0A then .reconfLtk
  else if op = 0x0B then .rspPair
  else if op = 0x0C then .rspReconf
  else if op = 0x0F then .zeroize
  else if op = 0x00 then .reserved00
  else if op = 0x0D then .reserved0D
  else if op = 0x0E then .reserved0E
  else if op &&& 0xF0 = 0x10 then .reserved10 op
  else if op &&& 0xE0 = 0x20 then .reserved20 op
  else if op &&& 0xC0 = 0x40 then .reserved40 op
  else .reserved80 op

/-- Why a byte string is not a command. A byte is never refused (R44, R45: a reserved value is a command that fails
at its completion). -/
inductive DecodeError where
  /-- there is no byte to read -/
  | noByte
  deriving DecidableEq, Repr

/-- R42: a command is one byte; the rest of the string is given back. -/
def decode : List Byte → Except DecodeError (Instr × List Byte)
  | [] => .error .noByte
  | op :: rest => .ok (decodeOp op, rest)

/-- The bytes of a table word: byte `i` is bits `8i+7 : 8i` (bit 0 the least significant bit of the first byte). -/
def tableBytes (nbits w : Nat) : List Byte :=
  (List.range (nbits / 8)).map fun i => BitVec.ofNat 8 (w / 2 ^ (8 * i))

/-- The instruction the decoder reads from a table word: the whole word must be one command (R42: every command has
the same length, one byte). -/
def decodeTableWord (nbits w : Nat) : Option Instr :=
  match decode (tableBytes nbits w) with
  | .ok (i, []) => some i
  | .ok (_, _ :: _) => none
  | .error _ => none

/-- R44: the `OP` byte of a command. -/
def encodeOp : Instr → Byte
  | .encblk => 0x01
  | .keymat => 0x02
  | .kdf => 0x03
  | .pair => 0x04
  | .mac => 0x05
  | .ctr => 0x06
  | .cmdpkt => 0x07
  | .reconfName => 0x08
  | .reconfPass => 0x09
  | .reconfLtk => 0x0A
  | .rspPair => 0x0B
  | .rspReconf => 0x0C
  | .zeroize => 0x0F
  | .reserved00 => 0x00
  | .reserved0D => 0x0D
  | .reserved0E => 0x0E
  | .reserved10 op => op
  | .reserved20 op => op
  | .reserved40 op => op
  | .reserved80 op => op

/-- R42: the one word of a command. -/
def encode (i : Instr) : List Byte := [encodeOp i]

/-- spec/opcode_table.json: the mask and the match of the row a command stands on. -/
def Instr.row : Instr → Byte × Byte
  | .encblk => (0xFF, 0x01)
  | .keymat => (0xFF, 0x02)
  | .kdf => (0xFF, 0x03)
  | .pair => (0xFF, 0x04)
  | .mac => (0xFF, 0x05)
  | .ctr => (0xFF, 0x06)
  | .cmdpkt => (0xFF, 0x07)
  | .reconfName => (0xFF, 0x08)
  | .reconfPass => (0xFF, 0x09)
  | .reconfLtk => (0xFF, 0x0A)
  | .rspPair => (0xFF, 0x0B)
  | .rspReconf => (0xFF, 0x0C)
  | .zeroize => (0xFF, 0x0F)
  | .reserved00 => (0xFF, 0x00)
  | .reserved0D => (0xFF, 0x0D)
  | .reserved0E => (0xFF, 0x0E)
  | .reserved10 _ => (0xF0, 0x10)
  | .reserved20 _ => (0xE0, 0x20)
  | .reserved40 _ => (0xC0, 0x40)
  | .reserved80 _ => (0x80, 0x80)

/-- spec/opcode_table.json: mask and match of the twenty rows, in the table's order. -/
def tableRows : List (Byte × Byte) :=
  [(0xFF, 0x01), (0xFF, 0x02), (0xFF, 0x03), (0xFF, 0x04), (0xFF, 0x05), (0xFF, 0x06), (0xFF, 0x07), (0xFF, 0x08),
   (0xFF, 0x09), (0xFF, 0x0A), (0xFF, 0x0B), (0xFF, 0x0C), (0xFF, 0x0F), (0xFF, 0x00), (0xFF, 0x0D), (0xFF, 0x0E)]
  ++ [(0xF0, 0x10), (0xE0, 0x20), (0xC0, 0x40), (0x80, 0x80)]

end Sys2Proof
end

