-- ==== Sys2Proof/Config.lean ====
section
/-! DEFINITION. What the spec fixes for every engine, and the free values: constants without a body, of which nothing
can be proved (00_scope.md section 3, R3). -/

namespace Sys2Proof.Config

/-- R25: the register window is 1024 bytes. -/
abbrev windowSize : Nat := 1024

/-- FREE VALUE (R3, R118, log 1). ENGINE_LATENCY of the `n`-th command to start, when the run's own list of latencies
(`Machine.Pace.upcoming`) is used up: any finite number of environment steps. -/
opaque engineLatency (n : Nat) : Nat

/-- FREE VALUE (R26, R36, log 4). What the host's `n`-th access leaves in the host temporary when it is a read that
the engine gives no data for (a bus error, or an offset beyond the window). -/
opaque freeReadData (n : Nat) : Word32

/-- FREE VALUE (log 5). A host temporary before anything is read into it (R47: temporaries are not engine state). -/
opaque freeHostTemp (t : Nat) : Word32

end Sys2Proof.Config
end

