-- ==== Sys2Proof/Machine/State.lean ====
section
/-! DEFINITION. The state of the engine (10_state.md), the agents around it (70_reset_and_hazards.md R117, 30_encoding.md
R47), why a step can stop, and the state right after reset (R113). -/

namespace Sys2Proof.Machine

/-- R98: the error codes of `STATUS.ECODE`, exactly these (3 to 15 are never produced). -/
inductive ErrorCode where
  /-- code 0: the last completed command succeeded, or a command is running -/
  | none
  /-- code 1: `OP` is a reserved value -/
  | badcmd
  /-- code 2: a length operand outside what the command accepts -/
  | len
  deriving DecidableEq, Repr

/-- R10: the values of `STATUS.RESP`. -/
inductive Resp where
  | none
  | accepted
  | rejected
  | violation
  deriving DecidableEq, Repr

/-- The registers and buffers of the register window (10_state.md section 2), each under its own name. -/
inductive Reg where
  | cmd | status | ctrl | olen | nlen | wlen | dlen | dest | opc
  | key | name | pass | sr | rr | nonce | addr | seq | mac | din | out
  deriving DecidableEq, Repr

/-- What the bus answers to one host access. -/
inductive BusAnswer where
  /-- an accepted write (R33, R34, R35) -/
  | ok
  /-- an accepted read of `width` bytes (R32) -/
  | data (width : Nat) (value : Word32)
  /-- the bus error response (R36) -/
  | busError
  /-- the access is beyond the window and does not reach the engine (R26): the answer is the platform's -/
  | notReached
  deriving DecidableEq, Repr

/-- What the host writes: a number of the script, or the value of a host temporary (95_test_vectors.md program P4). -/
inductive Source where
  | imm (v : Word32)
  | temp (t : Nat)
  deriving DecidableEq, Repr

/-- R47: one line of a host script. An access is the bus transaction `(kind, offset, width, value)`; a width other
than 1 and 4 can be asked for (R28 says what is answered). A label is a line number (log 3). `reset` is no line of R47:
it marks where the reset input is asserted (R112, log 10). -/
inductive Line where
  /-- `WR8`, `WR32` and writes of other widths -/
  | write (off width : Nat) (src : Source)
  /-- `RD8`, `RD32` and reads of other widths, into the host temporary `t` -/
  | read (off width t : Nat)
  /-- `BIT1 t, k, label`: branch to line `target` if bit `k` of temporary `t` is 1 -/
  | bit1 (t k target : Nat)
  /-- the reset input is asserted here -/
  | reset
  deriving DecidableEq, Repr

/-- The host (R37, R117): the script it executes, the line it is at, its temporaries (rising by number), and what the
bus has answered so far, newest first (R119). -/
structure HostAgent where
  script  : List Line
  line    : Nat
  temps   : List (Nat × Word32)
  answers : List BusAnswer
  deriving DecidableEq, Repr

/-- ENGINE_LATENCY as this run has it (R3, R91, R118; log 1): how many environment steps are still to come before the
running command completes, the latencies of the commands that start next, and how many commands have started. -/
structure Pace where
  pending  : Nat
  upcoming : List Nat
  started  : Nat
  deriving DecidableEq, Repr

/-- A memory: (address, byte) pairs in one canonical form (`Memory.wf`, Machine/Ops.lean; log 7). -/
abbrev Memory := List Host.Cell

/-- R7: the engine's architectural state, the two buffers `DIN` and `OUT` in `mem` under their window offsets, and the
model's own `pace` and `host`. -/
structure State where
  /-- `CMD`, the byte `OP` (R9) -/
  op    : Byte
  /-- `STATUS.BUSY` (R10) -/
  busy  : Bool
  /-- `STATUS.DONE` (R10) -/
  done  : Bool
  /-- `STATUS.ERR` (R10) -/
  err   : Bool
  /-- `STATUS.OVR` (R10, R100) -/
  ovr   : Bool
  /-- `STATUS.ECODE` (R10, R98) -/
  ecode : ErrorCode
  /-- `STATUS.RESP` (R10) -/
  resp  : Resp
  /-- `CTRL.IE` (R11) -/
  ie    : Bool
  /-- `OLEN` (R12) -/
  olen  : Byte
  /-- `NLEN` (R13) -/
  nlen  : Byte
  /-- `WLEN` (R13) -/
  wlen  : Byte
  /-- `DLEN` (R13) -/
  dlen  : Byte
  /-- `DEST` (R14) -/
  dest  : Byte
  /-- `OPC` (R14) -/
  opc   : Byte
  /-- `KEY` (R16) -/
  key   : Bytes 16
  /-- `NAME` (R17) -/
  name  : Bytes 16
  /-- `PASS` (R17) -/
  pass  : Bytes 16
  /-- `SR` (R18) -/
  sr    : Bytes 8
  /-- `RR` (R18) -/
  rr    : Bytes 8
  /-- `NONCE` (R19) -/
  nonce : Bytes 8
  /-- `ADDR` (R20) -/
  addr  : Bytes 4
  /-- `SEQ` (R20) -/
  seq   : Bytes 3
  /-- `MAC` (R21) -/
  mac   : Bytes 16
  /-- `DIN` (R22) at 0x100 to 0x1FF and `OUT` (R23) at 0x200 to 0x2FF -/
  mem   : Memory
  /-- the model's own: when the running command completes -/
  pace  : Pace
  /-- the model's own: the host agent -/
  host  : HostAgent
  deriving DecidableEq, Repr

/-- Why the machine would stop with a fault: no reason exists. The engine has no trap (R105), never hangs (R93), and a
bus error is an answer to the host that changes no engine state (R36, R101). Nothing raises a fault; safe. -/
inductive Fault where
  deriving DecidableEq, Repr

/-- Why a step gives an instruction no meaning. -/
inductive Refusal where
  /-- An arm of `exec` without a meaning yet raises it; safe. No arm does: every command has its meaning. -/
  | notModelled (mnemonic : String)
  deriving DecidableEq, Repr

/-- What one step answers. -/
abbrev Answer := Host.Outcome State Fault Refusal

/-- R113: every byte of the register window is 0x00; `BUSY` = 0, so the engine waits for a host write to `CMD` (R114).
The model's own fields: no script, no answers, no latency in force (DESIGN CHOICE, log 12). -/
def State.reset : State where
  op := 0
  busy := false
  done := false
  err := false
  ovr := false
  ecode := .none
  resp := .none
  ie := false
  olen := 0
  nlen := 0
  wlen := 0
  dlen := 0
  dest := 0
  opc := 0
  key := Vector.replicate 16 0
  name := Vector.replicate 16 0
  pass := Vector.replicate 16 0
  sr := Vector.replicate 8 0
  rr := Vector.replicate 8 0
  nonce := Vector.replicate 8 0
  addr := Vector.replicate 4 0
  seq := Vector.replicate 3 0
  mac := Vector.replicate 16 0
  mem := []
  pace := { pending := 0, upcoming := [], started := 0 }
  host := { script := [], line := 0, temps := [], answers := [] }

end Sys2Proof.Machine
end

