-- ==== Sys2Proof/Machine/Ops.lean ====
section
/-! DEFINITION. The shared operations: memory, the named bytes of the registers, the result buffer, and the two ways a
command ends (46_control.md R91, 60_exceptions.md R99). -/

namespace Sys2Proof.Machine

/-- What a byte that the memory does not list reads as: the reset contents of `DIN` and `OUT` (R113). -/
def Memory.unlisted : Byte := 0x00

/-- The canonical form (log 7): addresses strictly rising, and no entry equal to what an unlisted address reads as. -/
abbrev Memory.wf (m : Memory) : Prop :=
  m.Pairwise (fun x y => x.1 < y.1) ∧ ∀ c ∈ m, c.2 ≠ Memory.unlisted

/-- The byte at an address. -/
def Memory.read : Memory → Nat → Byte
  | [], _ => Memory.unlisted
  | (k, v) :: m, a => if k = a then v else Memory.read m a

/-- A byte string as memory entries from `base` on, without the bytes an unlisted address reads as. -/
def Memory.cells : Nat → List Byte → Memory
  | _, [] => []
  | base, b :: bs => if b = Memory.unlisted then Memory.cells (base + 1) bs else (base, b) :: Memory.cells (base + 1) bs

/-- The memory with the `len` bytes from `base` on replaced by `bs`, and by unlisted bytes where `bs` is shorter. -/
def Memory.replace (m : Memory) (base len : Nat) (bs : List Byte) : Memory :=
  m.filter (fun c => decide (c.1 < base)) ++ Memory.cells base (bs.take len)
    ++ m.filter (fun c => decide (base + len ≤ c.1))

/-- One byte written. -/
def Memory.write (m : Memory) (a : Nat) (b : Byte) : Memory := m.replace a 1 [b]

/-- 10_state.md section 2: the window offset of a register's byte 0. -/
def Reg.offset : Reg → Nat
  | .cmd => 0x000
  | .status => 0x004
  | .ctrl => 0x008
  | .olen => 0x00C
  | .nlen => 0x010
  | .wlen => 0x011
  | .dlen => 0x012
  | .dest => 0x014
  | .opc => 0x015
  | .key => 0x020
  | .name => 0x030
  | .pass => 0x040
  | .sr => 0x050
  | .rr => 0x058
  | .nonce => 0x060
  | .addr => 0x068
  | .seq => 0x06C
  | .mac => 0x070
  | .din => 0x100
  | .out => 0x200

/-- 10_state.md section 2: how many bytes a register has. -/
def Reg.size : Reg → Nat
  | .cmd | .olen | .nlen | .wlen | .dlen | .dest | .opc => 1
  | .status | .ctrl | .addr => 4
  | .seq => 3
  | .sr | .rr | .nonce => 8
  | .key | .name | .pass | .mac => 16
  | .din | .out => 256

/-- Every register of the window, by rising offset. -/
def Reg.all : List Reg :=
  [.cmd, .status, .ctrl, .olen, .nlen, .wlen, .dlen, .dest, .opc, .key, .name, .pass, .sr, .rr, .nonce, .addr, .seq,
   .mac, .din, .out]

/-- R27: the register, and the index of its byte, that lies at a window offset; none at a reserved offset. -/
def Reg.at? (o : Nat) : Option (Reg × Nat) :=
  (Reg.all.find? fun r => decide (r.offset ≤ o ∧ o < r.offset + r.size)).map fun r => (r, o - r.offset)

/-- `DIN[i]` (R22). -/
def State.dinByte (s : State) (i : Nat) : Byte := s.mem.read (Reg.din.offset + i)

/-- `OUT[i]` (R23). -/
def State.outByte (s : State) (i : Nat) : Byte := s.mem.read (Reg.out.offset + i)

/-- R94, R12: a result goes to `OUT[0..OLEN-1]`, the rest of the 256 bytes of `OUT` becomes 0x00, and `OLEN` is the
result's length. -/
def State.setOut (s : State) (r : List Byte) : State :=
  { s with mem := s.mem.replace Reg.out.offset Reg.out.size r, olen := BitVec.ofNat 8 r.length }

/-- R91: the end of a command that succeeds. `ERR` and `ECODE` are 0 after it, as every command's "status written"
says (log 6). -/
def State.succeed (s : State) : State :=
  { s with busy := false, done := true, err := false, ecode := .none }

/-- R99, R91: `raise EngineError(code)`. A failing command writes, at its completion, only `STATUS`. The engine takes
no trap and saves nothing (R105). -/
def State.failWith (s : State) (code : ErrorCode) : State :=
  { s with busy := false, done := true, err := true, ecode := code }

/-- R15, R40: the command in force is the one the latched `OP` byte selects. -/
def State.command (s : State) : Instr := decodeOp s.op

end Sys2Proof.Machine
end

