-- ==== Sys2Proof/Machine/Operands.lean ====
section
/-! DEFINITION. The operands of the commands (30_encoding.md R46, 41_key_derivation.md R62, R63,
45_command_packet.md R83, R84). -/

namespace Sys2Proof.Machine

/-- R46: `DIN[0..DLEN-1]`, the payload, the data or the response. -/
def State.input (s : State) : List Byte := (List.range s.dlen.toNat).map s.dinByte

/-- R46: `DIN[0..15]`, the block of `ENCBLK`. -/
def State.inputBlock (s : State) : Bytes 16 := Vector.ofFn fun i => s.dinByte i.val

/-- R46, R68: the value of `RECONF_*`, `pad16(DIN, DLEN)`. -/
def State.inputValue (s : State) : Bytes 16 := pad16 s.inputBlock s.dlen

/-- R63: `KM = xor(pad16(NAME, NLEN), pad16(PASS, WLEN))`. -/
def State.keyMaterial (s : State) : Bytes 16 := xorBytes (pad16 s.name s.nlen) (pad16 s.pass s.wlen)

/-- R46: the block of `KDF`, `SR[0..7] ‖ RR[0..7]`. -/
def State.randomBlock (s : State) : Bytes 16 := s.sr ++ s.rr

/-- R46: the key of `PAIR`, `SR[0..7] ‖ zeros(8)`. -/
def State.paddedRandom (s : State) : Bytes 16 := s.sr ++ zeros 8

/-- R83: the command nonce `rev(ADDR[0..3]) ‖ 01 ‖ SEQ[0..2]`. -/
def State.commandNonce (s : State) : Bytes 8 := rev s.addr ++ (#v[0x01] : Bytes 1) ++ s.seq

/-- R84: the command payload, 15 bytes when `DLEN` is at most 10. -/
def State.commandPayload (s : State) : List Byte :=
  [s.dest, 0x00, s.opc, 0x60, 0x01] ++ s.input ++ List.replicate (10 - s.dlen.toNat) 0x00

end Sys2Proof.Machine
end

