-- ==== Sys2Proof/Machine/BlockCipher.lean ====
section
/-! DEFINITION. `ENCBLK` (40_block_cipher.md section 3). -/

namespace Sys2Proof.Machine

/-- R61: encrypt one 16-byte block with `E_rev`; LEN, before any result is written, when `DLEN` is not 16. -/
def execEncblk (s : State) : Answer :=
  if s.dlen = 16 then .next ((s.setOut (eRev s.key s.inputBlock).toList).succeed)
  else .next (s.failWith .len)

end Sys2Proof.Machine
end

