-- ==== Sys2Proof/Machine/Checksum.lean ====
section
/-! DEFINITION. The checksum and `MAC` (43_checksum.md). -/

namespace Sys2Proof.Machine

/-- R76 step 1: the initial block `n ‖ bytes(L) ‖ zeros(7)`. -/
def initialBlock (n : Bytes 8) (L : Nat) : Bytes 16 := n ++ #v[BitVec.ofNat 8 L] ++ zeros 7

/-- R76 step 3, one chunk. -/
def checksumStep (k : Bytes 16) (p : List Byte) (check : Bytes 16) (j : Nat) : Bytes 16 :=
  eRev k (xorBytes check (chunk16 p j))

/-- R76 `Checksum(k, n, p)`. -/
def checksum (k : Bytes 16) (n : Bytes 8) (p : List Byte) : Bytes 16 :=
  (List.range (chunks p.length)).foldl (checksumStep k p) (eRev k (initialBlock n p.length))

/-- R78: compute the checksum of `DIN[0..DLEN-1]`. -/
def execMac (s : State) : Answer :=
  .next ({ s with mac := checksum s.key s.nonce s.input }.setOut (checksum s.key s.nonce s.input).toList).succeed

end Sys2Proof.Machine
end

