-- ==== Sys2Proof/Machine/StreamCipher.lean ====
section
/-! DEFINITION. The counter-mode payload cipher and `CTR` (44_stream_cipher.md). -/

namespace Sys2Proof.Machine

/-- R79: the first counter block, `bytes(0x00) ‖ n ‖ zeros(7)`. -/
def counterBlock (n : Bytes 8) : Bytes 16 := (#v[0x00] : Bytes 1) ++ n ++ zeros 7

/-- R79, R80: the counter is byte 0 alone, modulo 256; no carry passes into byte 1. -/
def nextCounter (cb : Bytes 16) : Bytes 16 := cb.set 0 (cb[0] + 1)

/-- R79: the loop over the chunks that are left, from the counter block `cb`; only the last chunk may be shorter than
16 bytes. -/
def cryptChunks (k : Bytes 16) : Nat → Bytes 16 → List Byte → List Byte
  | 0, _, _ => []
  | c + 1, cb, p =>
    List.zipWith (· ^^^ ·) (eRev k cb).toList (p.take 16) ++ cryptChunks k c (nextCounter cb) (p.drop 16)

/-- R79 `Crypt(k, n, p)`. -/
def crypt (k : Bytes 16) (n : Bytes 8) (p : List Byte) : List Byte :=
  cryptChunks k (chunks p.length) (counterBlock n) p

/-- R82: encrypt or decrypt `DIN[0..DLEN-1]`. -/
def execCtr (s : State) : Answer := .next ((s.setOut (crypt s.key s.nonce s.input)).succeed)

end Sys2Proof.Machine
end

