-- ==== Sys2Proof/Machine/CommandPacket.lean ====
section
/-! DEFINITION. The command packet assembler `CMDPKT` (45_command_packet.md). -/

namespace Sys2Proof.Machine

/-- R86: the full checksum of the command payload, over the plaintext (R85). -/
def State.commandChecksum (s : State) : Bytes 16 := checksum s.key s.commandNonce s.commandPayload

/-- R85: `SEQ ‖ take(checksum, 2) ‖ ciphertext`. -/
def State.commandPacket (s : State) : List Byte :=
  s.seq.toList ++ s.commandChecksum.toList.take 2 ++ crypt s.key s.commandNonce s.commandPayload

/-- R86: assemble one 20-byte command packet; LEN, before any result is written, when `DLEN` is above 10. -/
def execCmdpkt (s : State) : Answer :=
  if 10 < s.dlen.toNat then .next (s.failWith .len)
  else .next ({ s with nonce := s.commandNonce, mac := s.commandChecksum }.setOut s.commandPacket).succeed

end Sys2Proof.Machine
end

