-- ==== Sys2Proof/Machine/Control.lean ====
section
/-! DEFINITION. `ZEROIZE` and the reserved `OP` values (46_control.md sections 2 and 3). -/

namespace Sys2Proof.Machine

/-- R97: `CTRL.IE`, `OVR` and `OP` are not cleared. -/
def State.zeroed (s : State) : State :=
  { s with
    key := zeros 16, name := zeros 16, pass := zeros 16
    sr := zeros 8, rr := zeros 8, nonce := zeros 8
    addr := zeros 4, seq := zeros 3, mac := zeros 16
    mem := (s.mem.replace Reg.din.offset Reg.din.size []).replace Reg.out.offset Reg.out.size []
    nlen := 0, wlen := 0, dlen := 0, dest := 0, opc := 0, olen := 0
    resp := .none }

/-- R97: destroy the key material and every operand and result. -/
def execZeroize (s : State) : Answer := .next s.zeroed.succeed

/-- R96: every reserved value raises BADCMD at its completion; `OP` keeps the value. -/
def State.badCommand (s : State) : State := s.failWith .badcmd

/-- R96, `OP` 0x00. -/
def execReserved00 (s : State) : Answer := .next s.badCommand

/-- R96, `OP` 0x0D. -/
def execReserved0D (s : State) : Answer := .next s.badCommand

/-- R96, `OP` 0x0E. -/
def execReserved0E (s : State) : Answer := .next s.badCommand

/-- R96, `OP` 0x10 to 0x1F. -/
def execReserved10 (_op : Byte) (s : State) : Answer := .next s.badCommand

/-- R96, `OP` 0x20 to 0x3F. -/
def execReserved20 (_op : Byte) (s : State) : Answer := .next s.badCommand

/-- R96, `OP` 0x40 to 0x7F. -/
def execReserved40 (_op : Byte) (s : State) : Answer := .next s.badCommand

/-- R96, `OP` 0x80 to 0xFF. -/
def execReserved80 (_op : Byte) (s : State) : Answer := .next s.badCommand

end Sys2Proof.Machine
end

