-- ==== Sys2Proof/Machine/KeyDerivation.lean ====
section
/-! DEFINITION. `KEYMAT` and `KDF` (41_key_derivation.md section 2). -/

namespace Sys2Proof.Machine

/-- R64: the key material of the current credentials. -/
def execKeymat (s : State) : Answer := .next ((s.setOut s.keyMaterial.toList).succeed)

/-- R65: the session key, with key `KM` and block `SR ‖ RR`. -/
def State.sessionKey (s : State) : Bytes 16 := eRev s.keyMaterial s.randomBlock

/-- R65: derive the session key and install it in `KEY`. -/
def execKdf (s : State) : Answer :=
  .next ({ s with key := s.sessionKey }.setOut s.sessionKey.toList).succeed

end Sys2Proof.Machine
end

