-- ==== Sys2Proof/Machine/Pairing.lean ====
section
/-! DEFINITION. `PAIR`, the mesh-reconfiguration packets and the response checks (42_pairing.md). -/

namespace Sys2Proof.Machine

/-- R67 (90_conflicts.md C1): the authentication tag, with key `SR ‖ zeros(8)` and block `KM`; only the first 8 bytes
of the result are used. -/
def State.pairTag (s : State) : List Byte := (eRev s.paddedRandom s.keyMaterial).toList.take 8

/-- R67: build the 17-byte pairing packet. -/
def execPair (s : State) : Answer := .next ((s.setOut ([0x0C] ++ s.sr.toList ++ s.pairTag)).succeed)

/-- R68 `ReconfPacket(p)`: `bytes(p) ‖ E_rev(KEY, pad16(DIN, DLEN))`. -/
def State.reconfPacket (s : State) (p : Byte) : State :=
  (s.setOut ([p] ++ (eRev s.key s.inputValue).toList)).succeed

/-- R69: the new-mesh-name packet. -/
def execReconfName (s : State) : Answer := .next (s.reconfPacket 0x04)

/-- R70: the new-mesh-password packet. -/
def execReconfPass (s : State) : Answer := .next (s.reconfPacket 0x05)

/-- R71: the new-long-term-key packet. -/
def execReconfLtk (s : State) : Answer := .next (s.reconfPacket 0x06)

/-- R72: the response random of an accepted pairing response, `DIN[1..8]`. -/
def State.responseRandom (s : State) : Bytes 8 := Vector.ofFn fun i => s.dinByte (1 + i.val)

/-- R72: classify the peripheral's pairing response; `RR` is written only on ACCEPTED. -/
def execRspPair (s : State) : Answer :=
  if 9 ≤ s.dlen.toNat ∧ s.dinByte 0 = 0x0D then
    .next { s with rr := s.responseRandom, resp := .accepted }.succeed
  else if 1 ≤ s.dlen.toNat ∧ s.dinByte 0 = 0x0E then .next { s with resp := .rejected }.succeed
  else .next { s with resp := .violation }.succeed

/-- R73 (90_conflicts.md C5): classify the peripheral's reconfiguration response. -/
def execRspReconf (s : State) : Answer :=
  if s.dlen = 0 then .next { s with resp := .violation }.succeed
  else if s.dinByte 0 = 0x07 then .next { s with resp := .accepted }.succeed
  else .next { s with resp := .rejected }.succeed

end Sys2Proof.Machine
end

