-- ==== Sys2Proof/Machine/Dispatch.lean ====
section
/-! DEFINITION. What the completion of each command does (46_control.md R91 `Exec(OP)`): one arm per constructor. -/

namespace Sys2Proof.Machine

def exec (i : Instr) (s : State) : Host.Outcome State Fault Refusal :=
  match i with
  | .encblk => Sys2Proof.Machine.execEncblk s
  | .keymat => Sys2Proof.Machine.execKeymat s
  | .kdf => Sys2Proof.Machine.execKdf s
  | .pair => Sys2Proof.Machine.execPair s
  | .mac => Sys2Proof.Machine.execMac s
  | .ctr => Sys2Proof.Machine.execCtr s
  | .cmdpkt => Sys2Proof.Machine.execCmdpkt s
  | .reconfName => Sys2Proof.Machine.execReconfName s
  | .reconfPass => Sys2Proof.Machine.execReconfPass s
  | .reconfLtk => Sys2Proof.Machine.execReconfLtk s
  | .rspPair => Sys2Proof.Machine.execRspPair s
  | .rspReconf => Sys2Proof.Machine.execRspReconf s
  | .zeroize => Sys2Proof.Machine.execZeroize s
  | .reserved00 => Sys2Proof.Machine.execReserved00 s
  | .reserved0D => Sys2Proof.Machine.execReserved0D s
  | .reserved0E => Sys2Proof.Machine.execReserved0E s
  | .reserved10 op => Sys2Proof.Machine.execReserved10 op s
  | .reserved20 op => Sys2Proof.Machine.execReserved20 op s
  | .reserved40 op => Sys2Proof.Machine.execReserved40 op s
  | .reserved80 op => Sys2Proof.Machine.execReserved80 op s

end Sys2Proof.Machine
end

