-- ==== Sys2Proof/Machine/Flags.lean ====
section
/-! DEFINITION. `STATUS` and `CTRL`: their bytes, what a host write does to them, what a command's start does, and the
interrupt output (10_state.md R10, R11; 46_control.md R90; 60_exceptions.md R98, R104). -/

namespace Sys2Proof.Machine

/-- R98: the number of an error code. -/
def ErrorCode.code : ErrorCode → BitVec 4
  | .none => 0
  | .badcmd => 1
  | .len => 2

/-- R10: the number of a response class. -/
def Resp.code : Resp → BitVec 2
  | .none => 0
  | .accepted => 1
  | .rejected => 2
  | .violation => 3

/-- R32: byte 0 of `STATUS`, `BUSY | DONE<<1 | ERR<<2 | OVR<<3 | ECODE<<4`. -/
def State.statusLow (s : State) : Byte :=
  s.ecode.code ++ BitVec.ofBool s.ovr ++ BitVec.ofBool s.err ++ BitVec.ofBool s.done ++ BitVec.ofBool s.busy

/-- R10, R32: byte `i` of `STATUS`; bits 31:10 read 0. -/
def State.statusByte (s : State) (i : Nat) : Byte :=
  if i = 0 then s.statusLow else if i = 1 then s.resp.code.setWidth 8 else 0

/-- R11, R32: byte `i` of `CTRL`; bits 31:1 read 0. -/
def State.ctrlByte (s : State) (i : Nat) : Byte := if i = 0 then (BitVec.ofBool s.ie).setWidth 8 else 0

/-- R10, R33: a host write to byte 0 of `STATUS` clears the W1C bits written as 1; `BUSY` and `ECODE` are read only. -/
def State.clearStatus (s : State) (b : Byte) : State :=
  { s with
    done := s.done && !b.getLsbD 1
    err := s.err && !b.getLsbD 2
    ovr := s.ovr && !b.getLsbD 3 }

/-- R90 `StartCommand()`: no other state changes at the start. -/
def State.startStatus (s : State) : State :=
  { s with busy := true, done := false, err := false, ecode := .none }

/-- R104: `IRQ = CTRL.IE AND STATUS.DONE`. -/
def State.irq (s : State) : Bool := s.ie && s.done

end Sys2Proof.Machine
end

