-- ==== Sys2Proof/Machine/Window.lean ====
section
/-! DEFINITION. The host's accesses to the register window (20_memory.md) and the start of a command (46_control.md
R90). -/

namespace Sys2Proof.Machine

/-- R27: byte `i` of register `r`; 0x00 at an index the register does not have. -/
def State.regByte (s : State) (r : Reg) (i : Nat) : Byte :=
  match r with
  | .cmd => if i = 0 then s.op else 0
  | .status => s.statusByte i
  | .ctrl => s.ctrlByte i
  | .olen => if i = 0 then s.olen else 0
  | .nlen => if i = 0 then s.nlen else 0
  | .wlen => if i = 0 then s.wlen else 0
  | .dlen => if i = 0 then s.dlen else 0
  | .dest => if i = 0 then s.dest else 0
  | .opc => if i = 0 then s.opc else 0
  | .key => s.key[i]?.getD 0
  | .name => s.name[i]?.getD 0
  | .pass => s.pass[i]?.getD 0
  | .sr => s.sr[i]?.getD 0
  | .rr => s.rr[i]?.getD 0
  | .nonce => s.nonce[i]?.getD 0
  | .addr => s.addr[i]?.getD 0
  | .seq => s.seq[i]?.getD 0
  | .mac => s.mac[i]?.getD 0
  | .din => if i < Reg.din.size then s.dinByte i else 0
  | .out => if i < Reg.out.size then s.outByte i else 0

/-- R32 `ReadByte(o)`: a reserved byte reads 0x00. -/
def State.readByte (s : State) (o : Nat) : Byte :=
  match Reg.at? o with
  | some (r, i) => s.regByte r i
  | none => 0x00

/-- R33 `WriteByte`, on byte `i` of register `r`: RO registers, `STATUS` bytes 1 to 3 and `CTRL` bytes 1 to 3 keep
their values (R34). -/
def State.writeReg (s : State) (r : Reg) (i : Nat) (b : Byte) : State :=
  match r with
  | .cmd => { s with op := b }
  | .status => if i = 0 then s.clearStatus b else s
  | .ctrl => if i = 0 then { s with ie := b.getLsbD 0 } else s
  | .olen | .mac | .out => s
  | .nlen => { s with nlen := b }
  | .wlen => { s with wlen := b }
  | .dlen => { s with dlen := b }
  | .dest => { s with dest := b }
  | .opc => { s with opc := b }
  | .key => { s with key := s.key.setIfInBounds i b }
  | .name => { s with name := s.name.setIfInBounds i b }
  | .pass => { s with pass := s.pass.setIfInBounds i b }
  | .sr => { s with sr := s.sr.setIfInBounds i b }
  | .rr => { s with rr := s.rr.setIfInBounds i b }
  | .nonce => { s with nonce := s.nonce.setIfInBounds i b }
  | .addr => { s with addr := s.addr.setIfInBounds i b }
  | .seq => { s with seq := s.seq.setIfInBounds i b }
  | .din => { s with mem := s.mem.write (Reg.din.offset + i) b }

/-- R33 `WriteByte(o, b)`: a reserved byte ignores it (R34). -/
def State.writeByte (s : State) (o : Nat) (b : Byte) : State :=
  match Reg.at? o with
  | some (r, i) => s.writeReg r i b
  | none => s

/-- R3, R118 (log 1): the latency of the command that starts now, from the run's own list, else the free value. -/
def Pace.begin (p : Pace) : Pace :=
  { pending := p.upcoming.headD (Config.engineLatency p.started)
    upcoming := p.upcoming.tail
    started := p.started + 1 }

/-- R90: a command starts; its latency is fixed here. -/
def State.startCommand (s : State) : State := { s.startStatus with pace := s.pace.begin }

/-- R28, R29: the widths and alignments the bus accepts. -/
def accessOk (a n : Nat) : Bool := n == 1 || (n == 4 && a % 4 == 0)

/-- R32: the bytes at `a`, `a + 1`, ..., the byte at `a + i` in bits `8i+7 : 8i` (R30). -/
def State.readLanes (s : State) (a : Nat) : Nat → Word32
  | 0 => 0
  | n + 1 => s.readLanes a n ||| ((s.readByte (a + n)).setWidth 32 <<< (8 * n))

/-- R32 `HostRead(a, n)`. A read changes no state. Beyond the window nothing is reached (R26, log 8). -/
def State.hostRead (s : State) (a n : Nat) : BusAnswer :=
  if Config.windowSize ≤ a then .notReached
  else if accessOk a n then .data n (s.readLanes a n)
  else .busError

/-- R33: the bytes of one write, byte `i` from bits `8i+7 : 8i` of the value (R30). -/
def State.writeLanes (s : State) (a : Nat) (v : Word32) : Nat → State
  | 0 => s
  | n + 1 => (s.writeLanes a v n).writeByte (a + n) (v.extractLsb' (8 * n) 8)

/-- R33 `HostWrite(a, n, v)`. Of an 8-bit write only bits 7:0 of `v` count. All bytes are stored before the command
starts (R42, R90). -/
def State.hostWrite (s : State) (a n : Nat) (v : Word32) : State × BusAnswer :=
  if Config.windowSize ≤ a then (s, .notReached)
  else if accessOk a n then
    if s.busy && !(decide (0x004 ≤ a) && decide (a ≤ 0x00B)) then ({ s with ovr := true }, .ok)
    else if a = 0x000 then ((s.writeLanes a v n).startCommand, .ok)
    else (s.writeLanes a v n, .ok)
  else (s, .busError)

end Sys2Proof.Machine
end

