-- ==== Sys2Proof/Machine/HostScript.lean ====
section
/-! DEFINITION. The host agent: what one line of its script does (30_encoding.md R47), the pseudo-operations (R48), the
reset input (70_reset_and_hazards.md R112), the end of a run (R119), and the handshakes of 42_pairing.md section 4 as
host scripts. -/

namespace Sys2Proof.Machine

/-- The value of host temporary `t`; a temporary nothing has been read into is a free value (log 5). -/
def HostAgent.temp (h : HostAgent) (t : Nat) : Word32 :=
  match h.temps.find? (fun c => c.1 == t) with
  | some c => c.2
  | none => Config.freeHostTemp t

/-- Host temporary `t` takes the value `v`; the list stays rising. -/
def HostAgent.setTemp (h : HostAgent) (t : Nat) (v : Word32) : HostAgent :=
  { h with temps := h.temps.filter (fun c => decide (c.1 < t)) ++ (t, v) :: h.temps.filter (fun c => decide (t < c.1)) }

/-- The bus's answer is recorded. -/
def HostAgent.record (h : HostAgent) (a : BusAnswer) : HostAgent := { h with answers := a :: h.answers }

/-- The host goes to line `n`. -/
def HostAgent.goto (h : HostAgent) (n : Nat) : HostAgent := { h with line := n }

/-- The line the host executes next; none when the script is over. -/
def HostAgent.current (h : HostAgent) : Option Line := h.script[h.line]?

/-- The value a line writes. -/
def HostAgent.value (h : HostAgent) : Source → Word32
  | .imm v => v
  | .temp t => h.temp t

/-- What a read leaves in its temporary: the data, or a free value where the engine gives none (log 4). -/
def HostAgent.received (h : HostAgent) : BusAnswer → Word32
  | .data _ v => v
  | .ok | .busError | .notReached => Config.freeReadData h.answers.length

/-- R112, R113: every register takes its reset value and a command in flight is abandoned. The host is not part of the
engine and goes on (log 10). -/
def State.resetEngine (s : State) : State :=
  { State.reset with host := s.host, pace := { s.pace with pending := 0 } }

/-- R91 (log 1): an environment step brings the completion of a running command nearer. -/
def State.tick (s : State) : State := { s with pace := { s.pace with pending := s.pace.pending - 1 } }

/-- R47: a write line. -/
def State.hostWriteLine (s : State) (off width : Nat) (src : Source) : State :=
  let r := s.hostWrite off width (s.host.value src)
  { r.1 with host := (s.host.record r.2).goto (s.host.line + 1) }

/-- R47: a read line. -/
def State.hostReadLine (s : State) (off width t : Nat) : State :=
  let a := s.hostRead off width
  { s with host := ((s.host.setTemp t (s.host.received a)).record a).goto (s.host.line + 1) }

/-- R47: the branch; no bus transaction. -/
def State.hostBranch (s : State) (t k target : Nat) : State :=
  { s with host := s.host.goto (if (s.host.temp t).getLsbD k then target else s.host.line + 1) }

/-- R112: the reset input is asserted and the script goes on. -/
def State.hostReset (s : State) : State :=
  { s.resetEngine with host := s.host.goto (s.host.line + 1) }

/-- One line of the host's script. -/
def State.hostLine (s : State) : Line → State
  | .write off width src => s.hostWriteLine off width src
  | .read off width t => s.hostReadLine off width t
  | .bit1 t k target => s.hostBranch t k target
  | .reset => s.hostReset

/-- R91, R93 (log 1): whether the running command completes now: its latency is over, or the host has no line left. -/
def State.engineTurn (s : State) : Bool := s.busy && (s.pace.pending == 0 || s.host.current.isNone)

/-- R37: the step of the environment: the host's next line, or nothing when the script is over (R114). -/
def State.hostTurn (s : State) : State :=
  match s.host.current with
  | some ln => s.tick.hostLine ln
  | none => s

/-- The engine is idle and would run the command of byte `b` next: `b` is latched, the command has started (R90) and its
latency is over (log 2). -/
def State.withStarted (s : State) (b : Byte) : State :=
  { { s with op := b }.startStatus with pace := { s.pace with pending := 0 } }

/-- R119: the host has executed its last line and no command is running. -/
def State.finished (s : State) : Bool := s.host.current.isNone && !s.busy

/-- R119: the values the host's reads returned, in the host's order. DESIGN CHOICE (log 13): a read that the engine gives
no data for, answered `busError` or `notReached`, adds no entry; the spec does not say. -/
def HostAgent.readValues (h : HostAgent) : List Word32 :=
  h.answers.reverse.filterMap fun a =>
    match a with
    | .data _ v => some v
    | .ok | .busError | .notReached => none

/-- R119: the observation of a run: the register window's contents and the values the host's reads returned. -/
def State.observation (s : State) : List Byte × List Word32 :=
  ((List.range Config.windowSize).map s.readByte, s.host.readValues)

/-! The lines of R47 and the pseudo-operations of R48. A script under construction is passed along, since a label is a
line number (log 3). -/

def wr8 (off : Nat) (b : Byte) : Line := .write off 1 (.imm (b.setWidth 32))

def wr32 (off : Nat) (v : Word32) : Line := .write off 4 (.imm v)

def rd8 (off t : Nat) : Line := .read off 1 t

def rd32 (off t : Nat) : Line := .read off 4 t

/-- R48 `WB off, b0 b1 ...`. -/
def writeBytes (off : Nat) (bs : List Byte) : List Line := bs.zipIdx.map fun c => wr8 (off + c.2) c.1

/-- R48 `RB off, k -> t`: byte `i` goes to temporary `t + i`. -/
def readBytes (off k t : Nat) : List Line := (List.range k).map fun i => rd8 (off + i) (t + i)

/-- R48 `CLR`: clears `DONE`, `ERR` and `OVR`. -/
def clr : Line := wr8 0x004 0x0E

/-- R48 `WAIT`, polling `STATUS` into temporary `t`, after the lines `sofar`. -/
def waitIdle (t : Nat) (sofar : List Line) : List Line := sofar ++ [rd32 0x004 t, .bit1 t 0 sofar.length]

/-- R48 `EXEC mnemonic`, after the lines `sofar`. -/
def execute (i : Instr) (t : Nat) (sofar : List Line) : List Line := waitIdle t (sofar ++ [wr8 0x000 (encodeOp i)])

/-- R74 steps 1 and 2: load the credentials and the session random, `EXEC PAIR`, read the packet (into temporaries 1 to
17; temporary 0 is the polled `STATUS`). The host hands the packet to the transport. -/
def pairingRequest (meshName meshPass : List Byte) (nameLen passLen : Byte) (sr : List Byte) : List Line :=
  execute .pair 0 (writeBytes Reg.name.offset meshName ++ [wr8 Reg.nlen.offset nameLen]
    ++ writeBytes Reg.pass.offset meshPass ++ [wr8 Reg.wlen.offset passLen] ++ writeBytes Reg.sr.offset sr)
  ++ readBytes Reg.out.offset 17 1

/-- R74 steps 4 and 5, after the lines `sofar`: load the response the transport read and its count, `EXEC RSP_PAIR`,
read `STATUS`, and `EXEC KDF` when `RESP` is ACCEPTED (bit 9 of `STATUS` is 0 and bit 8 is 1). Otherwise the script
ends, with the raw response in `DIN`. -/
def pairingAnswer (response : List Byte) (count : Byte) (sofar : List Line) : List Line :=
  let checked := execute .rspPair 0 (sofar ++ writeBytes Reg.din.offset response ++ [wr8 Reg.dlen.offset count])
    ++ [rd32 0x004 18]
  let past := checked.length + 4
  execute .kdf 0 (checked ++ [.bit1 18 9 past])

/-- R75: the three reconfiguration packets, each with its value in `DIN` and read out for the transport, after the lines
`sofar`. -/
def reconfigure (values : List (Instr × List Byte × Byte)) (sofar : List Line) : List Line :=
  values.foldl (fun acc v =>
    execute v.1 0 (acc ++ writeBytes Reg.din.offset v.2.1 ++ [wr8 Reg.dlen.offset v.2.2])
      ++ readBytes Reg.out.offset 17 1) sofar

/-- R115 (3), R89: one command packet, read out for the transport, after the lines `sofar`. -/
def sendCommand (address sequence : List Byte) (dest opc : Byte) (data : List Byte) (count : Byte)
    (sofar : List Line) : List Line :=
  execute .cmdpkt 0 (sofar ++ writeBytes Reg.addr.offset address ++ writeBytes Reg.seq.offset sequence
    ++ [wr8 Reg.dest.offset dest, wr8 Reg.opc.offset opc] ++ writeBytes Reg.din.offset data
    ++ [wr8 Reg.dlen.offset count])
  ++ readBytes Reg.out.offset 20 1

end Sys2Proof.Machine
end

