-- ==== Sys2Proof/Machine/Step.lean ====
section
/-! DEFINITION. One step of the machine in the one total order of R37: the completion of the running command when it is
the engine's turn (R91), else the environment's next step. -/

namespace Sys2Proof.Machine

/-- R37, R91: the next step. -/
def step (s : State) : Host.Outcome State Fault Refusal :=
  if s.engineTurn then exec s.command s else .next s.hostTurn

/-- The command of a table word is the one that runs next (log 2): `OP` is latched, the command has started, and its
completion is the very next step. -/
def State.withFetchWord (s : State) (_nbits w : Nat) : State := s.withStarted (BitVec.ofNat 8 w)

end Sys2Proof.Machine
end

