-- ==== Sys2Proof/Machine/Platform.lean ====
section
/-! DEFINITION. A platform of several engines (60_exceptions.md R109) and how a platform address reaches one of them
(20_memory.md R25, R26). `ENGINE_COUNT` is the length of the list and `ENGINE_BASE` a field of each engine: both are
arguments (R3, log 9). -/

namespace Sys2Proof.Machine

/-- R109: one engine of the platform, at the platform address of its offset 0x000. -/
structure PlatformEngine where
  base   : Nat
  engine : State
  deriving DecidableEq, Repr

/-- R109: the engines of a platform; they share nothing. -/
abbrev Platform := List PlatformEngine

/-- R25, R26: the address lies in this engine's window. -/
def PlatformEngine.covers (e : PlatformEngine) (a : Nat) : Bool :=
  decide (e.base ≤ a) && decide (a < e.base + Config.windowSize)

/-- A host write at a platform address: it reaches the engine whose window holds the address, else no engine. -/
def Platform.write : Platform → Nat → Nat → Word32 → Platform × BusAnswer
  | [], _, _, _ => ([], .notReached)
  | e :: es, a, n, v =>
    if e.covers a then
      let r := e.engine.hostWrite (a - e.base) n v
      ({ e with engine := r.1 } :: es, r.2)
    else
      let r := Platform.write es a n v
      (e :: r.1, r.2)

/-- A host read at a platform address. -/
def Platform.read : Platform → Nat → Nat → BusAnswer
  | [], _, _ => .notReached
  | e :: es, a, n => if e.covers a then e.engine.hostRead (a - e.base) n else Platform.read es a n

/-- R109: engine number `k` takes its completion step when it has one (R91); no other engine changes. -/
def Platform.complete (p : Platform) (k : Nat) : Platform :=
  match p[k]? with
  | some e =>
    if e.engine.busy then
      match exec e.engine.command e.engine with
      | .next t => p.set k { e with engine := t }
      | .fault _ | .refused _ => p
    else p
  | none => p

end Sys2Proof.Machine
end

