-- ==== Sys2Proof/Safety.lean ====
section
/-! DEFINITION. What the claims call a legal state, the registers a command may read and write, and a clean run. -/

namespace Sys2Proof.Machine

/-- The two buffers hold nothing outside `DIN` and `OUT`, in canonical form (R25, log 7). -/
abbrev State.BuffersCanonical (s : State) : Prop :=
  s.mem.wf ∧ ∀ c ∈ s.mem, Reg.din.offset ≤ c.1 ∧ c.1 < Reg.out.offset + Reg.out.size

/-- R10, R90: while a command runs, `DONE`, `ERR` and `ECODE` are clear. -/
abbrev State.RunningClear (s : State) : Prop :=
  s.busy = true → s.done = false ∧ s.err = false ∧ s.ecode = ErrorCode.none

/-- R98, R99: `ERR` is 1 only with an error code. -/
abbrev State.ErrorCoded (s : State) : Prop := s.err = true → s.ecode ≠ ErrorCode.none

/-- R12, R94: every byte of `OUT` from index `OLEN` on is 0x00. -/
abbrev State.OutputPadded (s : State) : Prop := ∀ i < Reg.out.size, s.olen.toNat ≤ i → s.outByte i = 0x00

/-- The invariant of the machine: what holds at reset and every step keeps. -/
structure State.Inv (s : State) : Prop where
  buffers : s.BuffersCanonical
  running : s.RunningClear
  coded   : s.ErrorCoded
  padded  : s.OutputPadded

end Sys2Proof.Machine

namespace Sys2Proof

open Machine

/-- 10_state.md section 6: the registers a command may write at its completion, `STATUS` left out. -/
def Instr.writes : Instr → List Reg
  | .encblk | .keymat | .pair | .ctr | .reconfName | .reconfPass | .reconfLtk => [.out, .olen]
  | .kdf => [.key, .out, .olen]
  | .mac => [.mac, .out, .olen]
  | .cmdpkt => [.nonce, .mac, .out, .olen]
  | .rspPair => [.rr]
  | .rspReconf => []
  | .zeroize => [.olen, .nlen, .wlen, .dlen, .dest, .opc, .key, .name, .pass, .sr, .rr, .nonce, .addr, .seq, .mac,
      .din, .out]
  | .reserved00 | .reserved0D | .reserved0E | .reserved10 _ | .reserved20 _ | .reserved40 _ | .reserved80 _ => []

/-- 30_encoding.md R46: the bytes of the registers that a command reads, as (register, index) with `DLEN` = `d` and the
credential lengths `n` and `w`; a byte of `DIN` counts only below `d`, a byte of `NAME` below `n`, of `PASS` below `w`
(R17, R62). -/
def Instr.readsByte (i : Instr) (n w d : Nat) (r : Reg) (k : Nat) : Bool :=
  match i with
  | .encblk | .reconfName | .reconfPass | .reconfLtk =>
    r == .key || r == .dlen || (r == .din && decide (k < d) && decide (k < 16))
  | .keymat => r == .nlen || r == .wlen || (r == .name && decide (k < n)) || (r == .pass && decide (k < w))
  | .kdf =>
    r == .nlen || r == .wlen || (r == .name && decide (k < n)) || (r == .pass && decide (k < w)) || r == .sr || r == .rr
  | .pair =>
    r == .nlen || r == .wlen || (r == .name && decide (k < n)) || (r == .pass && decide (k < w)) || r == .sr
  | .mac | .ctr => r == .key || r == .nonce || r == .dlen || (r == .din && decide (k < d))
  | .cmdpkt =>
    r == .key || r == .addr || r == .seq || r == .dest || r == .opc || r == .dlen || (r == .din && decide (k < d))
  | .rspPair | .rspReconf => r == .dlen || (r == .din && decide (k < d))
  | .zeroize | .reserved00 | .reserved0D | .reserved0E | .reserved10 _ | .reserved20 _ | .reserved40 _
  | .reserved80 _ => false

end Sys2Proof

namespace Sys2Proof.Machine

/-- R91: the `STATUS` bits a command that succeeded leaves. -/
def State.Succeeded (t : State) : Prop :=
  t.busy = false ∧ t.done = true ∧ t.err = false ∧ t.ecode = ErrorCode.none

/-- R99: the `STATUS` bits a command that failed with `code` leaves. -/
def State.Failed (t : State) (code : ErrorCode) : Prop :=
  t.busy = false ∧ t.done = true ∧ t.err = true ∧ t.ecode = code

/-- R94, R12: `OUT` holds the byte string `r` and 0x00 past it, and `OLEN` is its length. -/
def State.OutIs (t : State) (r : List Byte) : Prop :=
  t.olen.toNat = r.length ∧ ∀ i < Reg.out.size, t.outByte i = r.getD i 0x00

/-- The frame of a command whose destination registers are `rs`: every byte of every other register but `STATUS`, the
bit `OVR`, every byte of the memory outside the destination buffers, and the model's own fields are unchanged. -/
def State.Keeps (s t : State) (rs : List Reg) : Prop :=
  (∀ r k, r ≠ Reg.status → r ∉ rs → t.regByte r k = s.regByte r k) ∧ t.ovr = s.ovr ∧
  (∀ a, (Reg.din ∈ rs → a < Reg.din.offset ∨ Reg.din.offset + Reg.din.size ≤ a) →
    (Reg.out ∈ rs → a < Reg.out.offset ∨ Reg.out.offset + Reg.out.size ≤ a) → t.mem.read a = s.mem.read a) ∧
  t.pace = s.pace ∧ t.host = s.host

/-- R22: `DIN[0..n-1]`. -/
def State.dinBytes (s : State) (n : Nat) : List Byte := (List.range n).map s.dinByte

/-- R34: no register byte lies at this window offset. -/
def ReservedOffset (o : Nat) : Prop := ∀ (r : Reg) (k : Nat), k < r.size → o ≠ r.offset + k

/-- R34: the offset of a reserved byte or of a byte the host cannot write: `OLEN`, `MAC`, `OUT`, bytes 1 to 3 of
`STATUS` and of `CTRL`. -/
def IgnoresWrites (o : Nat) : Prop :=
  ReservedOffset o ∨ ∃ (r : Reg) (k : Nat), o = r.offset + k ∧ k < r.size ∧
    (r ∈ [Reg.olen, .mac, .out] ∨ (r ∈ [Reg.status, .ctrl] ∧ k ≠ 0))

/-- R93, R112: no reset comes before the running command completes. In each of the steps its latency leaves (log 1) the
line the host is at is no reset; the script may hold reset lines that come later. -/
def State.NoResetFirst (s : State) : Prop :=
  ∀ n < s.pace.pending, ∀ u, Host.Core.run Sys2Proof.core n s = .next u → u.host.current ≠ some Line.reset

/-- R116: no write of the host was dropped (row 1) and no access was a bus error (row 10). -/
abbrev State.Clean (s : State) : Prop := s.ovr = false ∧ BusAnswer.busError ∉ s.host.answers

end Sys2Proof.Machine
end

