-- ==== Sys2Proof/Certificates/Slice0/Obligations.lean ====
section
/-! DEFINITION. The statements about the engine, each from the numbered rules of the spec; OBLIGATIONS.json lists them. -/

open Sys2Proof Sys2Proof.Machine

/-! ## The command encoding (30_encoding.md) -/

/-- R44: the opcode map, row by row; every `OP` value from 0x10 on is on one of the four reserved rows. -/
def Obligations.OpcodeMapIsTheSpecs : Prop :=
  decodeOp 0x01 = .encblk ∧ decodeOp 0x02 = .keymat ∧ decodeOp 0x03 = .kdf ∧ decodeOp 0x04 = .pair ∧
  decodeOp 0x05 = .mac ∧ decodeOp 0x06 = .ctr ∧ decodeOp 0x07 = .cmdpkt ∧ decodeOp 0x08 = .reconfName ∧
  decodeOp 0x09 = .reconfPass ∧ decodeOp 0x0A = .reconfLtk ∧ decodeOp 0x0B = .rspPair ∧
  decodeOp 0x0C = .rspReconf ∧ decodeOp 0x0F = .zeroize ∧
  decodeOp 0x00 = .reserved00 ∧ decodeOp 0x0D = .reserved0D ∧ decodeOp 0x0E = .reserved0E ∧
  ∀ op : Byte,
    (0x10 ≤ op.toNat → op.toNat ≤ 0x1F → decodeOp op = .reserved10 op) ∧
    (0x20 ≤ op.toNat → op.toNat ≤ 0x3F → decodeOp op = .reserved20 op) ∧
    (0x40 ≤ op.toNat → op.toNat ≤ 0x7F → decodeOp op = .reserved40 op) ∧
    (0x80 ≤ op.toNat → decodeOp op = .reserved80 op)

/-- R42, R44: decoding the word of a well-formed command gives the command back and leaves the rest of the bytes. -/
def Obligations.DecodeOfEncodeIsTheCommand : Prop :=
  ∀ (i : Instr) (rest : List Byte), i.wellFormed = true → decode (encode i ++ rest) = .ok (i, rest)

/-- R42, R44: every byte is the word of exactly one well-formed command, on the one row its mask and match select. -/
def Obligations.EveryByteIsTheWordOfOneCommand : Prop :=
  ∀ op : Byte, (decodeOp op).wellFormed = true ∧ encodeOp (decodeOp op) = op ∧
    ∀ row ∈ tableRows, op &&& row.1 = row.2 ↔ (decodeOp op).row = row

/-! ## Steps, completion, atomicity (46_control.md, 20_memory.md section 4) -/

/-- R91, R40: when it is the engine's turn the step is the completion of the command the latched `OP` selects; while
`BUSY` is 0 the engine has no step; and a command put in force by `withFetchWord` is the one the next step runs. (When
it is the engine's turn, and `withFetchWord`, are the model's choice, log 1 and log 2.) -/
def Obligations.StepRunsTheLatchedCommand : Prop :=
  (∀ s : State, s.engineTurn = true → step s = exec (decodeOp s.op) s) ∧
  (∀ s : State, s.busy = false → step s = .next s.hostTurn) ∧
  (∀ (s : State) (nbits w : Nat),
    step (s.withFetchWord nbits w) = exec (decodeOp (BitVec.ofNat 8 w)) (s.withFetchWord nbits w))

/-- R105, R93: the engine takes no trap and never hangs. So every state has a next state: a running command's completion
is a step whatever the command, and no host line stops. That an engine with no command and no host line has an idle step
(R91 gives it none) is the model's choice, log 2, and so is that the host goes on after a `BusError`, log 4. -/
def Obligations.EveryStepGoesOn : Prop := ∀ s : State, ∃ t, step s = .next t

/-- R93: every started command completes, unless a reset comes first (a reset line later in the script is allowed): within
the steps its latency leaves, the step that runs the latched command comes, and it ends with `BUSY` = 0 and `DONE` = 1. (Counting the latency in steps is the
model's choice, log 1; a reset is a line of the script, log 10.) -/
def Obligations.StartedCommandCompletes : Prop :=
  ∀ s : State, s.busy = true → s.NoResetFirst →
    ∃ n ≤ s.pace.pending, ∃ u t, Host.Core.run Sys2Proof.core n s = .next u ∧ u.busy = true ∧
      step u = exec (decodeOp s.op) u ∧ step u = .next t ∧ t.busy = false ∧ t.done = true

/-- R35: a step that leaves the command running changes no register but `STATUS` and `CTRL`; of `STATUS` the error code
and the response class stay too. -/
def Obligations.RunningEngineKeepsItsRegisters : Prop :=
  ∀ s t : State, s.busy = true → step s = .next t → t.busy = true →
    (∀ r k, r ≠ Reg.status → r ≠ Reg.ctrl → t.regByte r k = s.regByte r k) ∧
    (∀ a, t.mem.read a = s.mem.read a) ∧ t.ecode = s.ecode ∧ t.resp = s.resp

/-- R92: the completed command leaves, in every register but `STATUS` and `CTRL`, and in `ECODE` and `RESP`, what it
computes from the registers as they are at any earlier moment of its run, the start among them; up to the completion
those registers are unchanged. A reset that comes first is left out, one that comes later is not. (The bound in steps is
the model's choice, log 1; a reset is a line of the script, log 10.) -/
def Obligations.ResultIsOfTheOperandsAtTheStart : Prop :=
  ∀ s : State, s.busy = true → s.NoResetFirst →
    ∃ n ≤ s.pace.pending, ∃ u t t₀, Host.Core.run Sys2Proof.core n s = .next u ∧ step u = .next t ∧
      exec (decodeOp s.op) s = .next t₀ ∧ t.busy = false ∧
      (∀ r k, r ≠ Reg.status → r ≠ Reg.ctrl → u.regByte r k = s.regByte r k) ∧
      (∀ r k, r ≠ Reg.status → r ≠ Reg.ctrl → t.regByte r k = t₀.regByte r k) ∧
      t.err = t₀.err ∧ t.ecode = t₀.ecode ∧ t.resp = t₀.resp

/-- R35, R92, program P6 of 95_test_vectors.md: a host that starts `MAC` and writes `DLEN` without waiting has both
runs. With latency 1 the write is dropped and `OVR` is set; with latency 0 it is stored. In both the checksum is over
the bytes present at the start. (The latencies are counted in steps, the model's choice, log 1.) -/
def Obligations.WriteDuringACommandHasBothRuns : Prop :=
  ∀ s : State, s.busy = false → s.ovr = false → s.host.script = [wr8 0x000 0x05, wr8 0x012 0x00] → s.host.line = 0 →
    (s.pace.upcoming = [1] → ∃ t, Host.Core.run Sys2Proof.core 3 s = .next t ∧ t.busy = false ∧ t.dlen = s.dlen ∧
      t.ovr = true ∧ t.mac = checksum s.key s.nonce (s.dinBytes s.dlen.toNat)) ∧
    (s.pace.upcoming = [0] → ∃ t, Host.Core.run Sys2Proof.core 3 s = .next t ∧ t.busy = false ∧ t.dlen = 0 ∧
      t.ovr = false ∧ t.mac = checksum s.key s.nonce (s.dinBytes s.dlen.toNat))

/-- R93, R48, R38: a host that polls `STATUS` until `BUSY` is 0 (`WAIT` at line `p`: read `STATUS`, branch back on bit 0)
gets past the loop, at the latest 4 steps after the latency is over, and then no command is running. (Latency in steps
and labels as line numbers are the model's choice, log 1 and log 3.) -/
def Obligations.PollingEndsWhenTheCommandCompletes : Prop :=
  ∀ (s : State) (t p : Nat), s.host.line = p → s.host.script[p]? = some (rd32 0x004 t) →
    s.host.script[p + 1]? = some (.bit1 t 0 p) →
    ∃ n ≤ s.pace.pending + 4, ∃ v, Host.Core.run Sys2Proof.core n s = .next v ∧ v.host.line = p + 2 ∧ v.busy = false

/-- R111, R114: with no command running and no line of the host's left, nothing changes. (That the machine then takes
idle steps is the model's choice, log 2.) -/
def Obligations.IdleEngineKeepsItsState : Prop :=
  ∀ s : State, s.busy = false → s.host.current = none → step s = .next s

/-! ## Reset (70_reset_and_hazards.md) -/

/-- R113: the reset value of every byte of the register window is 0x00, and the engine is idle with `IRQ` = 0. -/
def Obligations.ResetReadsZeroEverywhere : Prop :=
  (∀ o < 1024, State.reset.readByte o = 0x00) ∧ State.reset.busy = false ∧ State.reset.done = false ∧
  State.reset.err = false ∧ State.reset.ovr = false ∧ State.reset.ecode = .none ∧ State.reset.resp = .none ∧
  State.reset.ie = false ∧ State.reset.irq = false

/-- R112: a reset makes every register take its reset value and abandons the running command: right after it the engine
has no step, and every byte of the window reads 0x00. (A reset is one step at a line of the script, the model's choice,
log 10.) -/
def Obligations.ResetAbandonsTheRunningCommand : Prop :=
  ∀ s : State, s.engineTurn = false → s.host.current = some .reset →
    ∃ t, step s = .next t ∧ t.busy = false ∧ t.engineTurn = false ∧ (∀ o < 1024, t.readByte o = 0x00) ∧
      t.irq = false ∧ (∀ a, t.mem.read a = 0x00)

/-! ## The register window (20_memory.md, 10_state.md section 3) -/

/-- R28, R29, R36: an access of another width than 1 and 4, or a 32-bit access off a multiple of 4, is answered
`BusError` and changes no engine state; 8-bit accesses at any offset and 32-bit accesses at a multiple of 4 are
accepted. -/
def Obligations.AccessWidthsAndAlignment : Prop :=
  (∀ (s : State) (a n : Nat) (v : Word32), a < 1024 → ((n ≠ 1 ∧ n ≠ 4) ∨ (n = 4 ∧ a % 4 ≠ 0)) →
    s.hostRead a n = .busError ∧ s.hostWrite a n v = (s, .busError)) ∧
  (∀ (s : State) (a n : Nat) (v : Word32), a < 1024 → (n = 1 ∨ (n = 4 ∧ a % 4 = 0)) →
    (∃ x, s.hostRead a n = .data n x) ∧ (s.hostWrite a n v).2 = .ok)

/-- R26: an access beyond the window does not reach the engine and has no effect on it. (The answer `notReached` is the
model's, log 8.) -/
def Obligations.BeyondTheWindowNothingIsReached : Prop :=
  ∀ (s : State) (a n : Nat) (v : Word32), 1024 ≤ a →
    s.hostRead a n = .notReached ∧ s.hostWrite a n v = (s, .notReached)

/-- R30, R32: an accepted read gives the window's bytes in little-endian lanes, and 0 above them. -/
def Obligations.ReadsAreLittleEndianLanes : Prop :=
  (∀ (s : State) (a : Nat), a < 1024 → a % 4 = 0 → ∃ v, s.hostRead a 4 = .data 4 v ∧
    ∀ i < 4, v.extractLsb' (8 * i) 8 = s.readByte (a + i)) ∧
  (∀ (s : State) (a : Nat), a < 1024 → s.hostRead a 1 = .data 1 ((s.readByte a).setWidth 32))

/-- R10, R11, R32: the fields of the 32-bit value a read of `STATUS` gives, and of `CTRL`: bit 0 is `IE` and bits 31:1
read 0. -/
def Obligations.StatusWordHasTheSpecsFields : Prop :=
  (∀ s : State, ∃ v, s.hostRead 0x004 4 = .data 4 v ∧ v.getLsbD 0 = s.busy ∧ v.getLsbD 1 = s.done ∧
    v.getLsbD 2 = s.err ∧ v.getLsbD 3 = s.ovr ∧
    v.extractLsb' 4 4 = (match s.ecode with | .none => 0 | .badcmd => 1 | .len => 2) ∧
    v.extractLsb' 8 2 = (match s.resp with | .none => 0 | .accepted => 1 | .rejected => 2 | .violation => 3) ∧
    v.extractLsb' 10 22 = 0) ∧
  (∀ s : State, ∃ v, s.hostRead 0x008 4 = .data 4 v ∧ v.getLsbD 0 = s.ie ∧ v.extractLsb' 1 31 = 0)

/-- R32: a read line changes no register and no byte of memory, whatever `BUSY` is. -/
def Obligations.ReadsHaveNoSideEffect : Prop :=
  ∀ (s : State) (off width t : Nat),
    (∀ r k, (s.hostLine (.read off width t)).regByte r k = s.regByte r k) ∧
    (∀ a, (s.hostLine (.read off width t)).mem.read a = s.mem.read a) ∧
    (s.hostLine (.read off width t)).pace = s.pace

/-- R33, R30: while no command runs, an accepted write stores its bytes in the RW registers it covers, byte `i` from
bits `8i+7 : 8i`, and every byte of the window outside the access is unchanged. -/
def Obligations.WriteStoresItsBytesAndNoOthers : Prop :=
  ∀ (s : State) (a n : Nat) (v : Word32), s.busy = false → a < 1024 → a ≠ 0 → (n = 1 ∨ (n = 4 ∧ a % 4 = 0)) →
    (s.hostWrite a n v).2 = .ok ∧
    (∀ i < n, ∀ (r : Reg) (k : Nat), a + i = r.offset + k → k < r.size →
      r ∈ [Reg.nlen, .wlen, .dlen, .dest, .opc, .key, .name, .pass, .sr, .rr, .nonce, .addr, .seq, .din] →
      (s.hostWrite a n v).1.readByte (a + i) = v.extractLsb' (8 * i) 8) ∧
    (∀ o, o < a ∨ a + n ≤ o → (s.hostWrite a n v).1.readByte o = s.readByte o)

/-- R34: an accepted write, of either width, leaves every read-only and every reserved byte it covers as it was; where it
covers no other byte it changes nothing at all (so it does not set `OVR`); the read-only bits of `STATUS` ignore what a
write to `STATUS` gives for them, and a write with 0 in its clearing bits changes nothing; a reserved byte reads 0x00.
While `BUSY` = 1 this is said of `STATUS` and `CTRL`, the only registers a write then reaches (R35). -/
def Obligations.ReadOnlyAndReservedBytesIgnoreWrites : Prop :=
  (∀ (s : State) (a n : Nat) (v : Word32), s.busy = false ∨ (0x004 ≤ a ∧ a ≤ 0x00B) → a < 1024 →
    (n = 1 ∨ (n = 4 ∧ a % 4 = 0)) →
    (s.hostWrite a n v).2 = .ok ∧
    (∀ o, a ≤ o → o < a + n → IgnoresWrites o → (s.hostWrite a n v).1.readByte o = s.readByte o) ∧
    ((∀ o, a ≤ o → o < a + n → IgnoresWrites o) → s.hostWrite a n v = (s, .ok))) ∧
  (∀ (s : State) (n : Nat) (v : Word32), (n = 1 ∨ n = 4) →
    (s.hostWrite 0x004 n v).1.busy = s.busy ∧ (s.hostWrite 0x004 n v).1.ecode = s.ecode ∧
    (s.hostWrite 0x004 n v).1.resp = s.resp ∧
    (v.getLsbD 1 = false → v.getLsbD 2 = false → v.getLsbD 3 = false → s.hostWrite 0x004 n v = (s, .ok))) ∧
  (∀ (s : State) (o : Nat), ReservedOffset o → s.readByte o = 0x00)

/-- R10, R33: an accepted write to `STATUS` clears the bits of `DONE`, `ERR` and `OVR` written as 1, whatever `BUSY` is;
`BUSY`, `ECODE`, `RESP` and every other state are unchanged. An accepted write to `CTRL` sets `IE` to bit 0. -/
def Obligations.StatusAndControlWrites : Prop :=
  ∀ (s : State) (n : Nat) (v : Word32), (n = 1 ∨ n = 4) →
    s.hostWrite 0x004 n v =
      ({ s with done := s.done && !v.getLsbD 1, err := s.err && !v.getLsbD 2, ovr := s.ovr && !v.getLsbD 3 }, .ok) ∧
    s.hostWrite 0x008 n v = ({ s with ie := v.getLsbD 0 }, .ok)

/-- R35: while `BUSY` = 1 an accepted write to any offset outside 0x004 to 0x00B is dropped: no byte is stored, no
command starts, the answer is OK and `OVR` is set. A write to `STATUS` or `CTRL` is performed as it is while `BUSY` = 0. -/
def Obligations.WriteWhileBusyIsDropped : Prop :=
  (∀ (s : State) (a n : Nat) (v : Word32), s.busy = true → a < 1024 → (a < 0x004 ∨ 0x00B < a) →
    (n = 1 ∨ (n = 4 ∧ a % 4 = 0)) → s.hostWrite a n v = ({ s with ovr := true }, .ok)) ∧
  (∀ (s : State) (a n : Nat) (v : Word32), s.busy = true → 0x004 ≤ a → a ≤ 0x00B →
    (n = 1 ∨ (n = 4 ∧ a % 4 = 0)) →
    s.hostWrite a n v =
      ({ ({ s with busy := false }.hostWrite a n v).1 with busy := true }, ({ s with busy := false }.hostWrite a n v).2))

/-- R90, R9: a write that includes offset 0x000, accepted while `BUSY` = 0, stores `OP` and starts a command: `BUSY` is
1, `DONE`, `ERR` and `ECODE` are cleared, and no other state of the engine changes. -/
def Obligations.CommandWriteStartsACommand : Prop :=
  ∀ (s : State) (n : Nat) (v : Word32), s.busy = false → (n = 1 ∨ n = 4) →
    ∃ t, s.hostWrite 0x000 n v = (t, .ok) ∧ t.op = v.extractLsb' 0 8 ∧ t.busy = true ∧ t.done = false ∧
      t.err = false ∧ t.ecode = .none ∧ t.ovr = s.ovr ∧ t.resp = s.resp ∧ t.host = s.host ∧
      (∀ r k, r ≠ Reg.cmd → r ≠ Reg.status → t.regByte r k = s.regByte r k) ∧ (∀ a, t.mem.read a = s.mem.read a)

/-- R104: the interrupt output is `IE` and `DONE`: it rises at a completion with `IE` = 1 or when the host sets `IE`
while `DONE` = 1, and it falls when the host clears `DONE` or `IE`, at the start of the next command, and at reset. -/
def Obligations.InterruptFollowsDoneAndEnable : Prop :=
  (∀ s : State, s.irq = (s.ie && s.done)) ∧
  (∀ (i : Instr) (s t : State), exec i s = .next t → t.irq = s.ie) ∧
  (∀ (s : State) (n : Nat) (v : Word32), (n = 1 ∨ n = 4) →
    (s.hostWrite 0x008 n v).1.irq = (v.getLsbD 0 && s.done) ∧
    (v.getLsbD 1 = true → (s.hostWrite 0x004 n v).1.irq = false) ∧
    (s.busy = false → (s.hostWrite 0x000 n v).1.irq = false)) ∧
  (∀ s : State, s.resetEngine.irq = false)

/-! ## The commands -/

/-- R61: `ENCBLK` puts `E_rev(KEY, DIN[0..15])` in `OUT` when `DLEN` = 16, and fails with LEN, writing only `STATUS`,
at every other `DLEN`. -/
def Obligations.EncblkEncryptsTheBlock : Prop :=
  ∀ s : State,
    (s.dlen.toNat = 16 → ∃ t, exec .encblk s = .next t ∧ t.Succeeded ∧
      t.OutIs (eRev s.key (Vector.ofFn fun i : Fin 16 => s.dinByte i)).toList ∧ s.Keeps t [.out, .olen] ∧
      t.resp = s.resp) ∧
    (s.dlen.toNat ≠ 16 → ∃ t, exec .encblk s = .next t ∧ t.Failed .len ∧ s.Keeps t [] ∧ t.resp = s.resp)

/-- R64, R62, R63: `KEYMAT` puts the key material in `OUT`: byte `i` is the XOR of `NAME[i]` (0 from `NLEN` on) and
`PASS[i]` (0 from `WLEN` on). -/
def Obligations.KeymatGivesTheKeyMaterial : Prop :=
  ∀ s : State, ∃ t, exec .keymat s = .next t ∧ t.Succeeded ∧ t.olen.toNat = 16 ∧
    (∀ i < 16, t.outByte i = (if i < s.nlen.toNat then s.regByte .name i else 0x00) ^^^
      (if i < s.wlen.toNat then s.regByte .pass i else 0x00)) ∧
    (∀ i, 16 ≤ i → i < 256 → t.outByte i = 0x00) ∧ s.Keeps t [.out, .olen] ∧ t.resp = s.resp

/-- R65: `KDF` installs `E_rev(KM, SR ‖ RR)` in `KEY` and puts it in `OUT`. -/
def Obligations.KdfInstallsTheSessionKey : Prop :=
  ∀ s : State, ∃ t, exec .kdf s = .next t ∧ t.Succeeded ∧
    t.key = eRev (xorBytes (pad16 s.name s.nlen) (pad16 s.pass s.wlen)) (s.sr ++ s.rr) ∧
    t.OutIs t.key.toList ∧ s.Keeps t [.key, .out, .olen] ∧ t.resp = s.resp

/-- R67: `PAIR` puts `0C ‖ SR ‖ take(E_rev(SR ‖ zeros(8), KM), 8)` in `OUT`. -/
def Obligations.PairBuildsThePairingPacket : Prop :=
  ∀ s : State, ∃ t, exec .pair s = .next t ∧ t.Succeeded ∧
    t.OutIs ([0x0C] ++ s.sr.toList ++
      (eRev (s.sr ++ zeros 8) (xorBytes (pad16 s.name s.nlen) (pad16 s.pass s.wlen))).toList.take 8) ∧
    t.olen.toNat = 17 ∧ s.Keeps t [.out, .olen] ∧ t.resp = s.resp

/-- R78: `MAC` puts the checksum of `DIN[0..DLEN-1]` under `KEY` and `NONCE` in `MAC` and in `OUT`. -/
def Obligations.MacGivesTheChecksum : Prop :=
  ∀ s : State, ∃ t, exec .mac s = .next t ∧ t.Succeeded ∧
    t.mac = checksum s.key s.nonce (s.dinBytes s.dlen.toNat) ∧ t.OutIs t.mac.toList ∧
    s.Keeps t [.mac, .out, .olen] ∧ t.resp = s.resp

/-- R82: `CTR` puts the `DLEN` bytes of `Crypt(KEY, NONCE, DIN[0..DLEN-1])` in `OUT`, zeros after them, and `OLEN` is
`DLEN`. -/
def Obligations.CtrGivesTheCiphertext : Prop :=
  ∀ s : State, ∃ t, exec .ctr s = .next t ∧ t.Succeeded ∧
    t.OutIs (crypt s.key s.nonce (s.dinBytes s.dlen.toNat)) ∧ t.olen = s.dlen ∧
    s.Keeps t [.out, .olen] ∧ t.resp = s.resp

/-- R83, R84, R85, R86: `CMDPKT` with `DLEN` at most 10 writes the command nonce to `NONCE`, the checksum of the command
payload to `MAC` and the 20-byte packet to `OUT`; with `DLEN` above 10 it fails with LEN and writes only `STATUS`. -/
def Obligations.CmdpktAssemblesThePacket : Prop :=
  ∀ s : State,
    (s.dlen.toNat ≤ 10 → ∃ t payload, exec .cmdpkt s = .next t ∧ t.Succeeded ∧
      payload = [s.dest, 0x00, s.opc, 0x60, 0x01] ++ s.dinBytes s.dlen.toNat ++
        List.replicate (10 - s.dlen.toNat) 0x00 ∧
      t.nonce = #v[s.addr[3], s.addr[2], s.addr[1], s.addr[0], 0x01, s.seq[0], s.seq[1], s.seq[2]] ∧
      t.mac = checksum s.key t.nonce payload ∧
      t.OutIs (s.seq.toList ++ t.mac.toList.take 2 ++ crypt s.key t.nonce payload) ∧ t.olen.toNat = 20 ∧
      s.Keeps t [.nonce, .mac, .out, .olen] ∧ t.resp = s.resp) ∧
    (10 < s.dlen.toNat → ∃ t, exec .cmdpkt s = .next t ∧ t.Failed .len ∧ s.Keeps t [] ∧ t.resp = s.resp)

/-- R68, R69, R70, R71: the reconfiguration packets are the packet opcode 04, 05 or 06 and `E_rev(KEY, pad16(DIN,
DLEN))`. -/
def Obligations.ReconfPacketsCarryTheNewValue : Prop :=
  ∀ (s : State) (i : Instr) (p : Byte),
    (i = .reconfName ∧ p = 0x04) ∨ (i = .reconfPass ∧ p = 0x05) ∨ (i = .reconfLtk ∧ p = 0x06) →
    ∃ t, exec i s = .next t ∧ t.Succeeded ∧
      t.OutIs ([p] ++ (eRev s.key
        (Vector.ofFn fun j : Fin 16 => if j.val < s.dlen.toNat then s.dinByte j else 0x00)).toList) ∧
      t.olen.toNat = 17 ∧ s.Keeps t [.out, .olen] ∧ t.resp = s.resp

/-- R72: `RSP_PAIR` accepts a response of at least 9 bytes that begins with 0x0D and captures its response random,
rejects one that begins with 0x0E, and calls every other response a violation; `RR` changes only on ACCEPTED. -/
def Obligations.RspPairClassifiesTheResponse : Prop :=
  ∀ s : State, ∃ t, exec .rspPair s = .next t ∧ t.Succeeded ∧ s.Keeps t [.rr] ∧
    (9 ≤ s.dlen.toNat ∧ s.dinByte 0 = 0x0D → t.resp = .accepted ∧ ∀ i < 8, t.regByte .rr i = s.dinByte (1 + i)) ∧
    (1 ≤ s.dlen.toNat ∧ s.dinByte 0 = 0x0E → t.resp = .rejected ∧ t.rr = s.rr) ∧
    (¬ (9 ≤ s.dlen.toNat ∧ s.dinByte 0 = 0x0D) → ¬ (1 ≤ s.dlen.toNat ∧ s.dinByte 0 = 0x0E) →
      t.resp = .violation ∧ t.rr = s.rr)

/-- R73: `RSP_RECONF` accepts a response that begins with 0x07, rejects one that begins with another byte, and calls an
empty one a violation; no register but `STATUS` changes. -/
def Obligations.RspReconfClassifiesTheResponse : Prop :=
  ∀ s : State, ∃ t, exec .rspReconf s = .next t ∧ t.Succeeded ∧ s.Keeps t [] ∧
    (s.dlen.toNat = 0 → t.resp = .violation) ∧
    (s.dlen.toNat ≠ 0 → s.dinByte 0 = 0x07 → t.resp = .accepted) ∧
    (s.dlen.toNat ≠ 0 → s.dinByte 0 ≠ 0x07 → t.resp = .rejected)

/-- R97: after `ZEROIZE` every byte of every data and length register, of `DIN`, `OUT` and `MAC` reads 0x00 and `RESP`
is NONE; `CTRL.IE`, `OVR` and `OP` are kept. -/
def Obligations.ZeroizeClearsEverything : Prop :=
  ∀ s : State, ∃ t, exec .zeroize s = .next t ∧ t.Succeeded ∧ (∀ o, 0x00C ≤ o → t.readByte o = 0x00) ∧
    t.resp = .none ∧ t.ie = s.ie ∧ t.ovr = s.ovr ∧ t.op = s.op ∧ s.Keeps t (Instr.writes .zeroize)

/-- R96: every reserved `OP` value completes with `ERR` = 1 and `ECODE` = BADCMD; no register other than `STATUS`
changes, and the command takes the busy period like any other. -/
def Obligations.ReservedValuesFailWithBadcmd : Prop :=
  ∀ (s : State) (op : Byte) (i : Instr),
    i = .reserved00 ∨ i = .reserved0D ∨ i = .reserved0E ∨ i = .reserved10 op ∨ i = .reserved20 op ∨
      i = .reserved40 op ∨ i = .reserved80 op →
    (∃ t, exec i s = .next t ∧ t.Failed .badcmd ∧ s.Keeps t [] ∧ t.resp = s.resp) ∧
    (s.busy = false → (s.hostWrite 0x000 1 ((encodeOp i).setWidth 32)).1.busy = true)

/-! ## Rules over all commands -/

/-- R99: a failing command writes, at its completion, only `STATUS`. -/
def Obligations.FailingCommandWritesOnlyStatus : Prop :=
  ∀ (i : Instr) (s t : State), exec i s = .next t → t.err = true →
    t.ecode ≠ .none ∧ t = { s with busy := false, done := true, err := true, ecode := t.ecode }

/-- R98: BADCMD (1) is the code of exactly the reserved values, LEN (2) of exactly `ENCBLK` with `DLEN` ≠ 16 and
`CMDPKT` with `DLEN` > 10, and NONE (0) of every other completion; `ERR` is 1 exactly with a code; `OP` and `DLEN` keep
what caused it; and the code is NONE again when the next command starts. -/
def Obligations.ErrorCodesHaveTheSpecsCauses : Prop :=
  (∀ (i : Instr) (s t : State), exec i s = .next t →
    (t.ecode = .badcmd ↔ i ∉ [Instr.encblk, .keymat, .kdf, .pair, .mac, .ctr, .cmdpkt, .reconfName, .reconfPass,
      .reconfLtk, .rspPair, .rspReconf, .zeroize]) ∧
    (t.ecode = .len ↔ (i = .encblk ∧ s.dlen.toNat ≠ 16) ∨ (i = .cmdpkt ∧ 10 < s.dlen.toNat)) ∧
    (t.err = true ↔ t.ecode ≠ .none) ∧ (t.ecode ≠ .none → t.op = s.op ∧ t.dlen = s.dlen)) ∧
  (∀ s : State, ∃ v, s.hostRead 0x004 4 = .data 4 v ∧
    v.extractLsb' 4 4 = (match s.ecode with | .none => 0 | .badcmd => 1 | .len => 2)) ∧
  (∀ (s : State) (n : Nat) (v : Word32), s.busy = false → (n = 1 ∨ n = 4) → (s.hostWrite 0x000 n v).1.ecode = .none)

/-- 10_state.md section 6: a command writes only the registers the table gives it, and `STATUS`; `RESP` changes only by
`RSP_PAIR`, `RSP_RECONF` and `ZEROIZE`. -/
def Obligations.CommandsWriteOnlyTheirRegisters : Prop :=
  ∀ (i : Instr) (s t : State), exec i s = .next t →
    s.Keeps t i.writes ∧ t.busy = false ∧ t.done = true ∧
    (i ≠ .rspPair → i ≠ .rspReconf → i ≠ .zeroize → t.resp = s.resp)

/-- R46: a command's results depend only on the operands the table gives it: two states that agree on those bytes get
the same error code and, if the command succeeds, the same bytes in every register it writes and the same response
class. -/
def Obligations.CommandsReadOnlyTheirOperands : Prop :=
  ∀ (i : Instr) (s s' t t' : State),
    (∀ r k, i.readsByte s.nlen.toNat s.wlen.toNat s.dlen.toNat r k = true → s.regByte r k = s'.regByte r k) →
    exec i s = .next t → exec i s' = .next t' →
    t.ecode = t'.ecode ∧ (i = .rspPair ∨ i = .rspReconf → t.resp = t'.resp) ∧
    (t.ecode = .none → (i = .rspPair → t.resp = .accepted) →
      ∀ r ∈ i.writes, ∀ k, t.regByte r k = t'.regByte r k)

/-- R97, the protocol's key destruction: what the window shows after `ZEROIZE` depends on nothing but `OP`, `OVR` and
`IE`, so two engines that hold different secrets become the same. -/
def Obligations.ZeroizeForgetsEverySecret : Prop :=
  ∀ s s' t t' : State, s.op = s'.op → s.ovr = s'.ovr → s.ie = s'.ie →
    exec .zeroize s = .next t → exec .zeroize s' = .next t' → ∀ o, t.readByte o = t'.readByte o

/-- What holds at reset: the machine invariant (the buffers in canonical form, which is the model's own, log 7; `ERR` only
with a code; zeros in `OUT` from `OLEN` on), and no command runs. -/
def Obligations.ResetMeetsTheMachineInvariant : Prop := State.reset.Inv ∧ State.reset.busy = false

/-- Every step keeps: the buffers' canonical form (R25), `DONE`, `ERR` and `ECODE` clear while a command runs (R90),
`ERR` only with a code (R98), and zeros in `OUT` from `OLEN` on (R12, R94). (The buffers' form is the model's, log 7.) -/
def Obligations.EveryStepKeepsTheMachineInvariant : Prop :=
  ∀ s t : State, s.Inv → step s = .next t → t.Inv

/-! ## The cryptographic functions -/

/-- R50: the S-box table is the affine map of the inverse in GF(2^8). -/
def Obligations.SboxTableIsAffineOfInverse : Prop := ∀ b : Byte, sbox b = affine (ginv b)

/-- R56: `KeyExpansion` gives 44 words, the key's own four and then `w[i] = xor(w[i-4], t)`, where `t` is `w[i-1]`, put
through RotWord, SubWord and the round constant `xtime^(i/4 - 1)(1)` when 4 divides `i`. -/
def Obligations.KeyExpansionFollowsTheRecurrence : Prop :=
  ∀ k : Bytes 16, (keyExpansion k).length = 44 ∧
    (∀ i < 4, ∀ r < 4, ((keyExpansion k).getD i (zeros 4)).toList.getD r 0 = k.toList.getD (4 * i + r) 0) ∧
    (∀ i, 4 ≤ i → i < 44 → ∀ t, t = (keyExpansion k).getD (i - 1) (zeros 4) →
      (keyExpansion k).getD i (zeros 4) = xorBytes ((keyExpansion k).getD (i - 4) (zeros 4))
        (if i % 4 = 0 then #v[sbox t[1] ^^^ xtimePow (i / 4 - 1) 0x01, sbox t[2], sbox t[3], sbox t[0]] else t))

/-- R52, R53, R54, R55: the steps of a round, byte by byte. -/
def Obligations.RoundStepsActOnTheBytes : Prop :=
  ∀ (s : AesState) (w : List KeyWord) (j : Nat) (c : Fin 4),
    (∀ r : Fin 4, (subBytes s)[r][c] = sbox s[r][c]) ∧
    (∀ r : Fin 4, (shiftRows s)[r][c] = s[r][c + r]) ∧
    (mixColumns s)[0][c] = gmul 2 s[0][c] ^^^ gmul 3 s[1][c] ^^^ s[2][c] ^^^ s[3][c] ∧
    (mixColumns s)[1][c] = s[0][c] ^^^ gmul 2 s[1][c] ^^^ gmul 3 s[2][c] ^^^ s[3][c] ∧
    (mixColumns s)[2][c] = s[0][c] ^^^ s[1][c] ^^^ gmul 2 s[2][c] ^^^ gmul 3 s[3][c] ∧
    (mixColumns s)[3][c] = gmul 3 s[0][c] ^^^ s[1][c] ^^^ s[2][c] ^^^ gmul 2 s[3][c] ∧
    (∀ r : Fin 4, (addRoundKey s w j)[r][c] = s[r][c] ^^^ (w.getD (4 * j + c.val) (zeros 4))[r])

/-- R60: for every key, `E_rev` is a bijection on blocks. -/
def Obligations.ErevIsABijection : Prop := ∀ k : Bytes 16, Function.Bijective (eRev k)

/-- R66: with the same credentials, different session or response randoms give different session keys. -/
def Obligations.KdfSeparatesTheRandoms : Prop :=
  ∀ s s' t t' : State, s.name = s'.name → s.nlen = s'.nlen → s.pass = s'.pass → s.wlen = s'.wlen →
    (s.sr ≠ s'.sr ∨ s.rr ≠ s'.rr) → exec .kdf s = .next t → exec .kdf s' = .next t' → t.key ≠ t'.key

/-- R62, R66: a credential is truncated at 16 bytes and padded with zeros: every length from 16 on pads alike, and a
zero byte counted in or left out at the end pads alike. -/
def Obligations.CredentialPaddingAndTruncation : Prop :=
  (∀ (x : Bytes 16) (n : Byte) (i : Nat) (hi : i < 16),
    (pad16 x n)[i] = if i < n.toNat then x[i] else 0x00) ∧
  (∀ (x : Bytes 16) (n m : Byte), 16 ≤ n.toNat → 16 ≤ m.toNat → pad16 x n = pad16 x m) ∧
  (∀ (x : Bytes 16) (n m : Byte) (h : n.toNat < 16), m.toNat = n.toNat + 1 → x[n.toNat] = 0x00 →
    pad16 x n = pad16 x m)

/-- R77: for a fixed key and nonce, changing one byte of the payload changes the checksum; zero bytes appended to a payload
change no chunk; payloads of different lengths have different initial blocks. -/
def Obligations.ChecksumDetectsAByteChange : Prop :=
  (∀ (k : Bytes 16) (n : Bytes 8) (p : List Byte) (i : Nat) (b : Byte), p.length ≤ 255 → i < p.length →
    p.getD i 0x00 ≠ b → checksum k n (p.set i b) ≠ checksum k n p) ∧
  (∀ (p : List Byte) (m j : Nat), chunk16 (p ++ List.replicate m 0x00) j = chunk16 p j) ∧
  (∀ (n : Bytes 8) (l l' : Nat), l ≤ 255 → l' ≤ 255 → l ≠ l' → initialBlock n l ≠ initialBlock n l')

/-- R81, R79: `Crypt` is an involution that keeps the length; byte `i` is the payload's byte XOR byte `i mod 16` of the
keystream block of counter `i div 16`, where the counter block is the counter, the nonce and zeros; and a part from the
front of the payload encrypts to the same part of the output. -/
def Obligations.CryptIsAnInvolution : Prop :=
  ∀ (k : Bytes 16) (n : Bytes 8) (p : List Byte), p.length ≤ 255 →
    crypt k n (crypt k n p) = p ∧ (crypt k n p).length = p.length ∧
    (∀ i, i < p.length → (crypt k n p).getD i 0x00 = p.getD i 0x00 ^^^
      (eRev k ((counterBlock n).set 0 (BitVec.ofNat 8 (i / 16)))).toList.getD (i % 16) 0x00) ∧
    (∀ (i : Nat) (h : i < 16), (counterBlock n)[i] =
      if i = 0 then 0x00 else if h9 : i < 9 then n[i - 1] else 0x00) ∧
    (∀ m ≤ p.length, crypt k n (p.take m) = (crypt k n p).take m)

/-- R82, R81, program P4: `CTR`, the result copied from `OUT` to `DIN`, and `CTR` again give the payload back. -/
def Obligations.CtrTwiceGivesThePayloadBack : Prop :=
  ∀ s t u : State, exec .ctr s = .next t →
    exec .ctr { t with mem := t.mem.replace 0x100 256 ((List.range t.olen.toNat).map t.outByte) } = .next u →
    ∀ i < s.dlen.toNat, u.outByte i = s.dinByte i

/-- R87: two packets of the same `KEY`, `ADDR`, `SEQ`, `DEST`, `OPC` and `DLEN` whose data differ only in `DIN[i]` agree
in the sequence and in every ciphertext byte but packet byte `10 + i`, and differ there by the XOR of the two data
bytes. -/
def Obligations.PacketsDifferOnlyAtTheChangedByte : Prop :=
  ∀ (s s' t t' : State) (i : Nat), s.key = s'.key → s.addr = s'.addr → s.seq = s'.seq → s.dest = s'.dest →
    s.opc = s'.opc → s.dlen = s'.dlen → s.dlen.toNat ≤ 10 → i < s.dlen.toNat →
    (∀ j < s.dlen.toNat, j ≠ i → s.dinByte j = s'.dinByte j) →
    exec .cmdpkt s = .next t → exec .cmdpkt s' = .next t' →
    (∀ j < 20, j < 3 ∨ (5 ≤ j ∧ j ≠ 10 + i) → t.outByte j = t'.outByte j) ∧
    t.outByte (10 + i) ^^^ t'.outByte (10 + i) = s.dinByte i ^^^ s'.dinByte i

/-! ## Several engines -/

/-- R25, R109: an access at `ENGINE_BASE + off` reaches the engine whose window holds it, as the access at offset `off`,
with that engine's answer; a completion of a busy engine is its command's, and an idle one has none; a write and a
completion leave every engine that is not reached as it was. (The list of engines, and that the first of overlapping
windows answers, are the model's form, log 9.) -/
def Obligations.EnginesDoNotInterfere : Prop :=
  (∀ (p : Platform) (a n : Nat) (v : Word32),
    (p.write a n v).1.length = p.length ∧
    ∀ (k : Nat) (e : PlatformEngine), p[k]? = some e → e.covers a = false → (p.write a n v).1[k]? = some e) ∧
  (∀ (p : Platform) (j k : Nat), j ≠ k → (p.complete k)[j]? = p[j]?) ∧
  (∀ (p q : Platform) (e : PlatformEngine) (off n : Nat) (v : Word32), off < 1024 →
    (∀ d ∈ p, e.base + off < d.base ∨ d.base + 1024 ≤ e.base + off) →
    (p ++ e :: q : Platform).write (e.base + off) n v =
      (p ++ { e with engine := (e.engine.hostWrite off n v).1 } :: q, (e.engine.hostWrite off n v).2) ∧
    (p ++ e :: q : Platform).read (e.base + off) n = e.engine.hostRead off n) ∧
  (∀ (p : Platform) (k : Nat) (e : PlatformEngine), p[k]? = some e →
    (e.engine.busy = true → ∃ t, exec (decodeOp e.engine.op) e.engine = .next t ∧
      (p.complete k)[k]? = some { e with engine := t }) ∧
    (e.engine.busy = false → p.complete k = p))

/-- R26: an access to a platform address outside every engine's window reaches no engine and changes none. (The answer
`notReached` is the model's, log 8, and so is the list of engines, log 9.) -/
def Obligations.AccessOutsideEveryWindowReachesNoEngine : Prop :=
  ∀ (p : Platform) (a n : Nat) (v : Word32), (∀ e ∈ p, a < e.base ∨ e.base + 1024 ≤ a) →
    p.write a n v = (p, .notReached) ∧ p.read a n = .notReached

/-! ## What `E_rev` and the checksum compute -/

/-- R51, R57, R58: AES-128 loads the block column by column, runs round 0 (the round key alone), rounds 1 to 9 with
`MixColumns` and round 10 without it, and unloads the state the same way; `E_rev` is AES-128 of the reversed key and the
reversed block, its result reversed. (That this is FIPS-197's AES-128 is log 11.) -/
def Obligations.ErevIsAesWithReversedBytes : Prop :=
  (∀ (p : Bytes 16) (r c : Fin 4), (AesState.load p)[r][c] = p[r.val + 4 * c.val]) ∧
  (∀ (s : AesState) (r c : Fin 4), s.unload[r.val + 4 * c.val] = s[r][c]) ∧
  (∀ k p : Bytes 16, ∃ st : Nat → AesState,
    st 0 = addRoundKey (AesState.load p) (keyExpansion k) 0 ∧
    (∀ j, 1 ≤ j → j ≤ 9 →
      st j = addRoundKey (mixColumns (shiftRows (subBytes (st (j - 1))))) (keyExpansion k) j) ∧
    aes128 k p = (addRoundKey (shiftRows (subBytes (st 9))) (keyExpansion k) 10).unload) ∧
  (∀ (k b : Bytes 16) (i : Fin 16), (eRev k b)[i] =
    (aes128 (Vector.ofFn fun j : Fin 16 => k[15 - j.val]) (Vector.ofFn fun j : Fin 16 => b[15 - j.val]))[15 - i.val])

/-- R76: the checksum starts from `E_rev` of the nonce, the length byte and zeros, and folds in one zero-padded chunk of 16
bytes after the other, `ceil(L / 16)` of them; an empty payload has none. -/
def Obligations.ChecksumChainsTheChunks : Prop :=
  (∀ (n : Bytes 8) (L i : Nat) (h : i < 16), L ≤ 255 →
    (initialBlock n L)[i] = if h8 : i < 8 then n[i] else if i = 8 then BitVec.ofNat 8 L else 0x00) ∧
  (∀ (k : Bytes 16) (n : Bytes 8), checksum k n [] = eRev k (initialBlock n 0)) ∧
  (∀ (k : Bytes 16) (n : Bytes 8) (p : List Byte), p.length ≤ 255 → ∃ check : Nat → Bytes 16,
    check 0 = eRev k (initialBlock n p.length) ∧
    (∀ j, 16 * j < p.length → check (j + 1) = eRev k (Vector.ofFn fun i : Fin 16 =>
      (check j)[i] ^^^ (if 16 * j + i.val < p.length then p.getD (16 * j + i.val) 0x00 else 0x00))) ∧
    checksum k n p = check ((p.length + 15) / 16))
end

