-- ==== Sys2Proof/Laws/Bytes.lean ====
section
/-! SUPPORT. The byte-string operations, byte by byte (00_scope.md R5), and their small laws. -/

namespace Sys2Proof.Machine

variable {n : Nat}

@[simp] theorem zeros_getElem (i : Nat) (h : i < n) : (zeros n)[i] = 0 := by simp [zeros]

@[simp] theorem xorBytes_getElem (x y : Bytes n) (i : Nat) (h : i < n) : (xorBytes x y)[i] = x[i] ^^^ y[i] := by
  simp [xorBytes]

@[simp] theorem rev_getElem (x : Bytes n) (i : Nat) (h : i < n) : (rev x)[i] = x[n - 1 - i] := by simp [rev]

@[simp] theorem chunk16_getElem (p : List Byte) (j i : Nat) (h : i < 16) :
    (chunk16 p j)[i] = p.getD (16 * j + i) 0 := by simp [chunk16]

/-- R5: `rev` is its own inverse. -/
@[simp] theorem rev_rev (x : Bytes n) : rev (rev x) = x := by
  ext i hi
  simp only [rev_getElem]
  congr 2
  omega

/-- R5: XOR with a fixed string is its own inverse. -/
@[simp] theorem xorBytes_cancel (x y : Bytes n) : xorBytes x (xorBytes x y) = y := by
  ext i hi
  simp

theorem xorBytes_comm (x y : Bytes n) : xorBytes x y = xorBytes y x := by
  ext i hi
  simp [BitVec.xor_comm]

/-- R5: XOR with a fixed string loses nothing. -/
theorem xorBytes_left_injective {x y z : Bytes n} (h : xorBytes x y = xorBytes x z) : y = z := by
  rw [← xorBytes_cancel x y, h, xorBytes_cancel]

/-- R76, R79: the chunks of a string cover it, and the last one begins inside it. -/
theorem chunks_bounds (L : Nat) : L ≤ 16 * chunks L ∧ 16 * chunks L ≤ L + 15 := by
  unfold chunks; omega

/-- R79, R80: the next counter block has byte 0 one higher, modulo 256, and the other bytes as before. -/
theorem nextCounter_getElem (cb : Bytes 16) (i : Nat) (h : i < 16) :
    (nextCounter cb)[i] = if i = 0 then cb[0] + 1 else cb[i] := by
  simp only [nextCounter, Vector.getElem_set]
  by_cases hi : i = 0
  · simp [hi]
  · simp [hi, Ne.symm hi]

/-- R76: what the checksum of one more chunk is: the chunk folded into the checksum of the chunks before it. -/
theorem checksum_fold_succ (k : Bytes 16) (p : List Byte) (c : Bytes 16) (m : Nat) :
    (List.range (m + 1)).foldl (checksumStep k p) c =
      eRev k (xorBytes ((List.range m).foldl (checksumStep k p) c) (chunk16 p m)) := by
  rw [List.range_succ, List.foldl_append]
  rfl

/-- R5: concatenation, byte by byte. -/
theorem append_getElem {a b : Nat} (x : Bytes a) (y : Bytes b) (i : Nat) (h : i < a + b) :
    (x ++ y)[i] = if h' : i < a then x[i] else y[i - a] := Vector.getElem_append h

/-- R79: the first counter block, byte by byte. -/
theorem counterBlock_getElem (n : Bytes 8) (i : Nat) (h : i < 16) :
    (counterBlock n)[i] = if i = 0 then 0 else if h9 : i < 9 then n[i - 1] else 0 := by
  refine (append_getElem ((#v[0x00] : Bytes 1) ++ n) (zeros 7) i h).trans ?_
  by_cases h9 : i < 9
  · rw [dif_pos (show i < 1 + 8 from h9), append_getElem]
    by_cases h0 : i = 0
    · subst h0; rfl
    · rw [dif_neg (by omega), if_neg h0, dif_pos h9]
  · rw [dif_neg (show ¬ i < 1 + 8 from h9), if_neg (by omega), dif_neg h9, zeros_getElem]

/-- R76: the initial block, byte by byte. -/
theorem initialBlock_getElem (n : Bytes 8) (L i : Nat) (h : i < 16) :
    (initialBlock n L)[i] = if h8 : i < 8 then n[i] else if i = 8 then BitVec.ofNat 8 L else 0 := by
  refine (append_getElem (n ++ (#v[BitVec.ofNat 8 L] : Bytes 1)) (zeros 7) i h).trans ?_
  by_cases h9 : i < 9
  · rw [dif_pos (show i < 8 + 1 from h9), append_getElem]
    by_cases h8 : i < 8
    · rw [dif_pos h8, dif_pos h8]
    · rw [dif_neg h8, dif_neg h8, if_pos (by omega)]
      have : i = 8 := by omega
      subst this; rfl
  · rw [dif_neg (show ¬ i < 8 + 1 from h9), dif_neg (by omega), if_neg (by omega), zeros_getElem]

/-- R65, R67: a block of two 8-byte strings, byte by byte. -/
theorem sixteen_getElem (x y : Bytes 8) (i : Nat) (h : i < 16) :
    ((x ++ y : Bytes 16))[i] = if h' : i < 8 then x[i] else y[i - 8] := append_getElem x y i h

/-- R83: the command nonce, byte by byte. -/
theorem commandNonce_eq (s : State) :
    s.commandNonce = #v[s.addr[3], s.addr[2], s.addr[1], s.addr[0], 0x01, s.seq[0], s.seq[1], s.seq[2]] := by
  apply Vector.ext
  intro i hi
  refine (append_getElem (rev s.addr ++ (#v[0x01] : Bytes 1)) s.seq i hi).trans ?_
  have : i = 0 ∨ i = 1 ∨ i = 2 ∨ i = 3 ∨ i = 4 ∨ i = 5 ∨ i = 6 ∨ i = 7 := by omega
  rcases this with rfl | rfl | rfl | rfl | rfl | rfl | rfl | rfl
  · rw [dif_pos (by decide), append_getElem, dif_pos (by decide), rev_getElem]; rfl
  · rw [dif_pos (by decide), append_getElem, dif_pos (by decide), rev_getElem]; rfl
  · rw [dif_pos (by decide), append_getElem, dif_pos (by decide), rev_getElem]; rfl
  · rw [dif_pos (by decide), append_getElem, dif_pos (by decide), rev_getElem]; rfl
  · rw [dif_pos (by decide), append_getElem, dif_neg (by decide)]; rfl
  all_goals rw [dif_neg (by decide)]; rfl

end Sys2Proof.Machine
end

