-- ==== Sys2Proof/Laws/Memory.lean ====
section
/-! SUPPORT. What reading a memory gives after its one update, that the update keeps the canonical form, and that
canonical memories with equal bytes are equal (log 7). -/

namespace Sys2Proof.Machine

namespace Memory

variable {m : Memory} {a base len : Nat} {bs : List Byte}

@[simp] theorem read_nil (a : Nat) : Memory.read [] a = unlisted := rfl

/-- An address that is no key reads as an unlisted one. -/
theorem read_eq_unlisted (h : ∀ c ∈ m, c.1 ≠ a) : m.read a = unlisted := by
  induction m with
  | nil => rfl
  | cons c m ih =>
    obtain ⟨k, v⟩ := c
    have hk : k ≠ a := h (k, v) (by simp)
    simp only [Memory.read, if_neg hk]
    exact ih fun c hc => h c (List.mem_cons_of_mem _ hc)

/-- In a concatenation the first part answers for its keys. -/
theorem read_append (m m' : Memory) (a : Nat) :
    Memory.read (m ++ m') a = if ∃ c ∈ m, c.1 = a then m.read a else Memory.read m' a := by
  induction m with
  | nil => simp
  | cons c m ih =>
    obtain ⟨k, v⟩ := c
    by_cases hk : k = a
    · simp [Memory.read, hk]
    · simp [Memory.read, hk, ih]

/-- A filter on keys that keeps `a` does not change what `a` reads. -/
theorem read_filter (p : Nat → Bool) (m : Memory) (ha : p a = true) :
    Memory.read (m.filter fun c => p c.1) a = m.read a := by
  induction m with
  | nil => rfl
  | cons c m ih =>
    obtain ⟨k, v⟩ := c
    by_cases hk : k = a
    · subst hk; simp [ha, Memory.read]
    · by_cases hp : p k = true
      · simp [hp, Memory.read, hk, ih]
      · simp [hp, Memory.read, hk, ih]

/-- The keys of a byte string's entries. -/
theorem cells_keys : ∀ {bs : List Byte} {base : Nat} {c : Host.Cell}, c ∈ cells base bs →
    base ≤ c.1 ∧ c.1 < base + bs.length ∧ c.2 ≠ unlisted
  | [], _, _, h => by simp [cells] at h
  | b :: bs, base, c, h => by
    unfold cells at h
    split at h
    · obtain ⟨h1, h2, h3⟩ := cells_keys h
      exact ⟨by omega, by simp only [List.length_cons]; omega, h3⟩
    · rename_i hb
      rcases List.mem_cons.mp h with rfl | h
      · exact ⟨le_rfl, by simp, hb⟩
      · obtain ⟨h1, h2, h3⟩ := cells_keys h
        exact ⟨by omega, by simp only [List.length_cons]; omega, h3⟩

/-- Reading the entries of a byte string. -/
theorem read_cells : ∀ (bs : List Byte) (base i : Nat), (cells base bs).read (base + i) = bs.getD i unlisted
  | [], _, _ => by simp [cells]
  | b :: bs, base, 0 => by
    unfold cells
    split
    · rename_i hb
      rw [read_eq_unlisted fun c hc => by have := (cells_keys hc).1; omega]
      simp [hb]
    · simp [Memory.read]
  | b :: bs, base, i + 1 => by
    have ih := read_cells bs (base + 1) i
    rw [show base + 1 + i = base + (i + 1) by omega] at ih
    unfold cells
    split
    · rw [ih]; simp
    · rw [Memory.read, if_neg (by omega), ih]; simp

/-- The one law of the update: the bytes of the replaced stretch read as the new string, every other byte as before. -/
theorem read_replace (m : Memory) (base len : Nat) (bs : List Byte) (a : Nat) :
    (m.replace base len bs).read a =
      if base ≤ a ∧ a < base + len then (bs.take len).getD (a - base) unlisted else m.read a := by
  unfold Memory.replace
  rw [List.append_assoc, read_append]
  split
  · rename_i h
    obtain ⟨c, hc, rfl⟩ := h
    have hlt : c.1 < base := by simpa using (List.mem_filter.mp hc).2
    rw [if_neg (by omega)]
    exact read_filter (fun k => decide (k < base)) m (by simpa using hlt)
  · rename_i h
    rw [read_append]
    split
    · rename_i h'
      obtain ⟨c, hc, rfl⟩ := h'
      obtain ⟨h1, h2, -⟩ := cells_keys hc
      have hl : (bs.take len).length ≤ len := List.length_take_le _ _
      rw [if_pos ⟨h1, by omega⟩]
      have := read_cells (bs.take len) base (c.1 - base)
      rwa [show base + (c.1 - base) = c.1 by omega] at this
    · rename_i h'
      by_cases hin : base ≤ a ∧ a < base + len
      · rw [if_pos hin, read_eq_unlisted]
        · have := read_cells (bs.take len) base (a - base)
          rw [show base + (a - base) = a by omega] at this
          rw [← this, read_eq_unlisted fun c hc hca => h' ⟨c, hc, hca⟩]
        · intro c hc hca
          have : base + len ≤ c.1 := by simpa using (List.mem_filter.mp hc).2
          omega
      · rw [if_neg hin]
        by_cases hge : base + len ≤ a
        · exact read_filter (fun k => decide (base + len ≤ k)) m (by simpa using hge)
        · have hlt : a < base := by omega
          rw [read_eq_unlisted, read_eq_unlisted]
          · intro c hc hca
            exact h ⟨c, List.mem_filter.mpr ⟨hc, by simpa using hca ▸ hlt⟩, hca⟩
          · intro c hc hca
            have : base + len ≤ c.1 := by simpa using (List.mem_filter.mp hc).2
            omega

/-- Read after write. -/
@[simp] theorem read_write (m : Memory) (a : Nat) (b : Byte) (x : Nat) :
    (m.write a b).read x = if x = a then b else m.read x := by
  unfold Memory.write
  rw [read_replace]
  by_cases h : x = a
  · subst h; simp
  · rw [if_neg h, if_neg (by omega)]

/-- The keys after the update lie in the stretch or were there before. -/
theorem mem_replace {c : Host.Cell} (h : c ∈ m.replace base len bs) :
    c ∈ m ∨ (base ≤ c.1 ∧ c.1 < base + len) := by
  unfold Memory.replace at h
  rcases List.mem_append.mp h with h | h
  · rcases List.mem_append.mp h with h | h
    · exact .inl (List.mem_filter.mp h).1
    · obtain ⟨h1, h2, -⟩ := cells_keys h
      have hl : (bs.take len).length ≤ len := List.length_take_le _ _
      exact .inr ⟨h1, by omega⟩
  · exact .inl (List.mem_filter.mp h).1

/-- The entries of a byte string are rising. -/
theorem cells_pairwise : ∀ (bs : List Byte) (base : Nat), (cells base bs).Pairwise fun x y => x.1 < y.1
  | [], _ => by simp [cells]
  | b :: bs, base => by
    unfold cells
    split
    · exact cells_pairwise bs _
    · refine List.pairwise_cons.mpr ⟨fun c hc => ?_, cells_pairwise bs _⟩
      have := (cells_keys hc).1
      simp only; omega

theorem wf_nil : Memory.wf [] := by simp [Memory.wf]

/-- The update keeps the canonical form. -/
theorem replace_wf (h : m.wf) (base len : Nat) (bs : List Byte) : (m.replace base len bs).wf := by
  obtain ⟨hs, hv⟩ := h
  have hl : (bs.take len).length ≤ len := List.length_take_le _ _
  have low : ∀ c ∈ m.filter (fun c => decide (c.1 < base)), c.1 < base := fun c hc => by
    simpa using (List.mem_filter.mp hc).2
  have high : ∀ c ∈ m.filter (fun c => decide (base + len ≤ c.1)), base + len ≤ c.1 := fun c hc => by
    simpa using (List.mem_filter.mp hc).2
  refine ⟨?_, ?_⟩
  · unfold Memory.replace
    refine List.pairwise_append.mpr ⟨List.pairwise_append.mpr ⟨hs.filter _, cells_pairwise _ _, ?_⟩, hs.filter _, ?_⟩
    · intro x hx y hy
      have := low x hx; have := (cells_keys hy).1; omega
    · intro x hx y hy
      have := high y hy
      rcases List.mem_append.mp hx with hx | hx
      · have := low x hx; omega
      · have := (cells_keys hx).2.1; omega
  · intro c hc
    unfold Memory.replace at hc
    rcases List.mem_append.mp hc with hc | hc
    · rcases List.mem_append.mp hc with hc | hc
      · exact hv c (List.mem_filter.mp hc).1
      · exact (cells_keys hc).2.2
    · exact hv c (List.mem_filter.mp hc).1

/-- A write keeps the canonical form. -/
theorem write_wf (h : m.wf) (a : Nat) (b : Byte) : (m.write a b).wf := replace_wf h _ _ _

/-- A listed address of a canonical memory reads as its entry, which is no unlisted byte. -/
theorem read_of_mem {k : Nat} {v : Byte} (h : m.wf) (hc : (k, v) ∈ m) : m.read k = v := by
  induction m with
  | nil => simp at hc
  | cons c m ih =>
    obtain ⟨k', v'⟩ := c
    obtain ⟨hs, hv⟩ := h
    rw [List.pairwise_cons] at hs
    rcases List.mem_cons.mp hc with h0 | h0
    · cases h0; simp [Memory.read]
    · have : k' < k := hs.1 _ h0
      rw [Memory.read, if_neg (by omega)]
      exact ih ⟨hs.2, fun c hc => hv c (List.mem_cons_of_mem _ hc)⟩ h0

/-- Equal canonical memories are equal data: two canonical memories that read alike are the same list. -/
theorem ext_of_wf : ∀ {m m' : Memory}, m.wf → m'.wf → (∀ a, m.read a = m'.read a) → m = m'
  | [], [], _, _, _ => rfl
  | [], (k, v) :: m', _, h', e => by
    have := read_of_mem h' (List.mem_cons_self ..)
    exact absurd ((e k).trans this).symm (h'.2 (k, v) (List.mem_cons_self ..))
  | (k, v) :: m, [], h, _, e => by
    have := read_of_mem h (List.mem_cons_self ..)
    exact absurd (this.symm.trans (e k)) (h.2 (k, v) (List.mem_cons_self ..))
  | (k, v) :: m, (k', v') :: m', h, h', e => by
    have hr := read_of_mem h (List.mem_cons_self ..)
    have hr' := read_of_mem h' (List.mem_cons_self ..)
    have hlt := (List.pairwise_cons.mp h.1).1
    have hlt' := (List.pairwise_cons.mp h'.1).1
    have hv : v ≠ unlisted := h.2 (k, v) (List.mem_cons_self ..)
    have hv' : v' ≠ unlisted := h'.2 (k', v') (List.mem_cons_self ..)
    have hk : k = k' := by
      by_contra hne
      rcases Nat.lt_or_ge k k' with hlt1 | hge
      · refine hv (hr.symm.trans ((e k).trans (read_eq_unlisted fun c hc => ?_)))
        rcases List.mem_cons.mp hc with rfl | hc
        · exact fun h0 => hne h0.symm
        · have := hlt' c hc; simp only at this; omega
      · refine hv' (hr'.symm.trans ((e k').symm.trans (read_eq_unlisted fun c hc => ?_)))
        rcases List.mem_cons.mp hc with rfl | hc
        · exact hne
        · have := hlt c hc; simp only at this; omega
    subst hk
    have hvv : v = v' := hr.symm.trans ((e k).trans hr')
    subst hvv
    have wf1 : Memory.wf m := ⟨(List.pairwise_cons.mp h.1).2, fun c hc => h.2 c (List.mem_cons_of_mem _ hc)⟩
    have wf2 : Memory.wf m' := ⟨(List.pairwise_cons.mp h'.1).2, fun c hc => h'.2 c (List.mem_cons_of_mem _ hc)⟩
    rw [ext_of_wf wf1 wf2 fun a => ?_]
    by_cases ha : a = k
    · subst ha
      rw [read_eq_unlisted, read_eq_unlisted]
      · intro c hc h0; have := hlt' c hc; simp only at this; omega
      · intro c hc h0; have := hlt c hc; simp only at this; omega
    · have := e a
      simpa [Memory.read, show ¬ k = a from fun h => ha h.symm] using this

end Memory

end Sys2Proof.Machine
end

