-- ==== Sys2Proof/Laws/State.lean ====
section
/-! SUPPORT. One lemma per field of State for each of the model's updates, true by rfl, so that no later proof unfolds an
update. -/

namespace Sys2Proof.Machine

variable (s : State)

/-! `State.setOut` -/

@[simp] theorem State.setOut_op (r : List Byte) : (s.setOut r).op = s.op := rfl
@[simp] theorem State.setOut_busy (r : List Byte) : (s.setOut r).busy = s.busy := rfl
@[simp] theorem State.setOut_done (r : List Byte) : (s.setOut r).done = s.done := rfl
@[simp] theorem State.setOut_err (r : List Byte) : (s.setOut r).err = s.err := rfl
@[simp] theorem State.setOut_ovr (r : List Byte) : (s.setOut r).ovr = s.ovr := rfl
@[simp] theorem State.setOut_ecode (r : List Byte) : (s.setOut r).ecode = s.ecode := rfl
@[simp] theorem State.setOut_resp (r : List Byte) : (s.setOut r).resp = s.resp := rfl
@[simp] theorem State.setOut_ie (r : List Byte) : (s.setOut r).ie = s.ie := rfl
@[simp] theorem State.setOut_olen (r : List Byte) : (s.setOut r).olen = BitVec.ofNat 8 r.length := rfl
@[simp] theorem State.setOut_nlen (r : List Byte) : (s.setOut r).nlen = s.nlen := rfl
@[simp] theorem State.setOut_wlen (r : List Byte) : (s.setOut r).wlen = s.wlen := rfl
@[simp] theorem State.setOut_dlen (r : List Byte) : (s.setOut r).dlen = s.dlen := rfl
@[simp] theorem State.setOut_dest (r : List Byte) : (s.setOut r).dest = s.dest := rfl
@[simp] theorem State.setOut_opc (r : List Byte) : (s.setOut r).opc = s.opc := rfl
@[simp] theorem State.setOut_key (r : List Byte) : (s.setOut r).key = s.key := rfl
@[simp] theorem State.setOut_name (r : List Byte) : (s.setOut r).name = s.name := rfl
@[simp] theorem State.setOut_pass (r : List Byte) : (s.setOut r).pass = s.pass := rfl
@[simp] theorem State.setOut_sr (r : List Byte) : (s.setOut r).sr = s.sr := rfl
@[simp] theorem State.setOut_rr (r : List Byte) : (s.setOut r).rr = s.rr := rfl
@[simp] theorem State.setOut_nonce (r : List Byte) : (s.setOut r).nonce = s.nonce := rfl
@[simp] theorem State.setOut_addr (r : List Byte) : (s.setOut r).addr = s.addr := rfl
@[simp] theorem State.setOut_seq (r : List Byte) : (s.setOut r).seq = s.seq := rfl
@[simp] theorem State.setOut_mac (r : List Byte) : (s.setOut r).mac = s.mac := rfl
@[simp] theorem State.setOut_mem (r : List Byte) : (s.setOut r).mem = s.mem.replace Reg.out.offset Reg.out.size r := rfl
@[simp] theorem State.setOut_pace (r : List Byte) : (s.setOut r).pace = s.pace := rfl
@[simp] theorem State.setOut_host (r : List Byte) : (s.setOut r).host = s.host := rfl

/-! `State.succeed` -/

@[simp] theorem State.succeed_op : (s.succeed).op = s.op := rfl
@[simp] theorem State.succeed_busy : (s.succeed).busy = false := rfl
@[simp] theorem State.succeed_done : (s.succeed).done = true := rfl
@[simp] theorem State.succeed_err : (s.succeed).err = false := rfl
@[simp] theorem State.succeed_ovr : (s.succeed).ovr = s.ovr := rfl
@[simp] theorem State.succeed_ecode : (s.succeed).ecode = ErrorCode.none := rfl
@[simp] theorem State.succeed_resp : (s.succeed).resp = s.resp := rfl
@[simp] theorem State.succeed_ie : (s.succeed).ie = s.ie := rfl
@[simp] theorem State.succeed_olen : (s.succeed).olen = s.olen := rfl
@[simp] theorem State.succeed_nlen : (s.succeed).nlen = s.nlen := rfl
@[simp] theorem State.succeed_wlen : (s.succeed).wlen = s.wlen := rfl
@[simp] theorem State.succeed_dlen : (s.succeed).dlen = s.dlen := rfl
@[simp] theorem State.succeed_dest : (s.succeed).dest = s.dest := rfl
@[simp] theorem State.succeed_opc : (s.succeed).opc = s.opc := rfl
@[simp] theorem State.succeed_key : (s.succeed).key = s.key := rfl
@[simp] theorem State.succeed_name : (s.succeed).name = s.name := rfl
@[simp] theorem State.succeed_pass : (s.succeed).pass = s.pass := rfl
@[simp] theorem State.succeed_sr : (s.succeed).sr = s.sr := rfl
@[simp] theorem State.succeed_rr : (s.succeed).rr = s.rr := rfl
@[simp] theorem State.succeed_nonce : (s.succeed).nonce = s.nonce := rfl
@[simp] theorem State.succeed_addr : (s.succeed).addr = s.addr := rfl
@[simp] theorem State.succeed_seq : (s.succeed).seq = s.seq := rfl
@[simp] theorem State.succeed_mac : (s.succeed).mac = s.mac := rfl
@[simp] theorem State.succeed_mem : (s.succeed).mem = s.mem := rfl
@[simp] theorem State.succeed_pace : (s.succeed).pace = s.pace := rfl
@[simp] theorem State.succeed_host : (s.succeed).host = s.host := rfl

/-! `State.failWith` -/

@[simp] theorem State.failWith_op (e : ErrorCode) : (s.failWith e).op = s.op := rfl
@[simp] theorem State.failWith_busy (e : ErrorCode) : (s.failWith e).busy = false := rfl
@[simp] theorem State.failWith_done (e : ErrorCode) : (s.failWith e).done = true := rfl
@[simp] theorem State.failWith_err (e : ErrorCode) : (s.failWith e).err = true := rfl
@[simp] theorem State.failWith_ovr (e : ErrorCode) : (s.failWith e).ovr = s.ovr := rfl
@[simp] theorem State.failWith_ecode (e : ErrorCode) : (s.failWith e).ecode = e := rfl
@[simp] theorem State.failWith_resp (e : ErrorCode) : (s.failWith e).resp = s.resp := rfl
@[simp] theorem State.failWith_ie (e : ErrorCode) : (s.failWith e).ie = s.ie := rfl
@[simp] theorem State.failWith_olen (e : ErrorCode) : (s.failWith e).olen = s.olen := rfl
@[simp] theorem State.failWith_nlen (e : ErrorCode) : (s.failWith e).nlen = s.nlen := rfl
@[simp] theorem State.failWith_wlen (e : ErrorCode) : (s.failWith e).wlen = s.wlen := rfl
@[simp] theorem State.failWith_dlen (e : ErrorCode) : (s.failWith e).dlen = s.dlen := rfl
@[simp] theorem State.failWith_dest (e : ErrorCode) : (s.failWith e).dest = s.dest := rfl
@[simp] theorem State.failWith_opc (e : ErrorCode) : (s.failWith e).opc = s.opc := rfl
@[simp] theorem State.failWith_key (e : ErrorCode) : (s.failWith e).key = s.key := rfl
@[simp] theorem State.failWith_name (e : ErrorCode) : (s.failWith e).name = s.name := rfl
@[simp] theorem State.failWith_pass (e : ErrorCode) : (s.failWith e).pass = s.pass := rfl
@[simp] theorem State.failWith_sr (e : ErrorCode) : (s.failWith e).sr = s.sr := rfl
@[simp] theorem State.failWith_rr (e : ErrorCode) : (s.failWith e).rr = s.rr := rfl
@[simp] theorem State.failWith_nonce (e : ErrorCode) : (s.failWith e).nonce = s.nonce := rfl
@[simp] theorem State.failWith_addr (e : ErrorCode) : (s.failWith e).addr = s.addr := rfl
@[simp] theorem State.failWith_seq (e : ErrorCode) : (s.failWith e).seq = s.seq := rfl
@[simp] theorem State.failWith_mac (e : ErrorCode) : (s.failWith e).mac = s.mac := rfl
@[simp] theorem State.failWith_mem (e : ErrorCode) : (s.failWith e).mem = s.mem := rfl
@[simp] theorem State.failWith_pace (e : ErrorCode) : (s.failWith e).pace = s.pace := rfl
@[simp] theorem State.failWith_host (e : ErrorCode) : (s.failWith e).host = s.host := rfl

/-! `State.startStatus` -/

@[simp] theorem State.startStatus_op : (s.startStatus).op = s.op := rfl
@[simp] theorem State.startStatus_busy : (s.startStatus).busy = true := rfl
@[simp] theorem State.startStatus_done : (s.startStatus).done = false := rfl
@[simp] theorem State.startStatus_err : (s.startStatus).err = false := rfl
@[simp] theorem State.startStatus_ovr : (s.startStatus).ovr = s.ovr := rfl
@[simp] theorem State.startStatus_ecode : (s.startStatus).ecode = ErrorCode.none := rfl
@[simp] theorem State.startStatus_resp : (s.startStatus).resp = s.resp := rfl
@[simp] theorem State.startStatus_ie : (s.startStatus).ie = s.ie := rfl
@[simp] theorem State.startStatus_olen : (s.startStatus).olen = s.olen := rfl
@[simp] theorem State.startStatus_nlen : (s.startStatus).nlen = s.nlen := rfl
@[simp] theorem State.startStatus_wlen : (s.startStatus).wlen = s.wlen := rfl
@[simp] theorem State.startStatus_dlen : (s.startStatus).dlen = s.dlen := rfl
@[simp] theorem State.startStatus_dest : (s.startStatus).dest = s.dest := rfl
@[simp] theorem State.startStatus_opc : (s.startStatus).opc = s.opc := rfl
@[simp] theorem State.startStatus_key : (s.startStatus).key = s.key := rfl
@[simp] theorem State.startStatus_name : (s.startStatus).name = s.name := rfl
@[simp] theorem State.startStatus_pass : (s.startStatus).pass = s.pass := rfl
@[simp] theorem State.startStatus_sr : (s.startStatus).sr = s.sr := rfl
@[simp] theorem State.startStatus_rr : (s.startStatus).rr = s.rr := rfl
@[simp] theorem State.startStatus_nonce : (s.startStatus).nonce = s.nonce := rfl
@[simp] theorem State.startStatus_addr : (s.startStatus).addr = s.addr := rfl
@[simp] theorem State.startStatus_seq : (s.startStatus).seq = s.seq := rfl
@[simp] theorem State.startStatus_mac : (s.startStatus).mac = s.mac := rfl
@[simp] theorem State.startStatus_mem : (s.startStatus).mem = s.mem := rfl
@[simp] theorem State.startStatus_pace : (s.startStatus).pace = s.pace := rfl
@[simp] theorem State.startStatus_host : (s.startStatus).host = s.host := rfl

/-! `State.startCommand` -/

@[simp] theorem State.startCommand_op : (s.startCommand).op = s.op := rfl
@[simp] theorem State.startCommand_busy : (s.startCommand).busy = true := rfl
@[simp] theorem State.startCommand_done : (s.startCommand).done = false := rfl
@[simp] theorem State.startCommand_err : (s.startCommand).err = false := rfl
@[simp] theorem State.startCommand_ovr : (s.startCommand).ovr = s.ovr := rfl
@[simp] theorem State.startCommand_ecode : (s.startCommand).ecode = ErrorCode.none := rfl
@[simp] theorem State.startCommand_resp : (s.startCommand).resp = s.resp := rfl
@[simp] theorem State.startCommand_ie : (s.startCommand).ie = s.ie := rfl
@[simp] theorem State.startCommand_olen : (s.startCommand).olen = s.olen := rfl
@[simp] theorem State.startCommand_nlen : (s.startCommand).nlen = s.nlen := rfl
@[simp] theorem State.startCommand_wlen : (s.startCommand).wlen = s.wlen := rfl
@[simp] theorem State.startCommand_dlen : (s.startCommand).dlen = s.dlen := rfl
@[simp] theorem State.startCommand_dest : (s.startCommand).dest = s.dest := rfl
@[simp] theorem State.startCommand_opc : (s.startCommand).opc = s.opc := rfl
@[simp] theorem State.startCommand_key : (s.startCommand).key = s.key := rfl
@[simp] theorem State.startCommand_name : (s.startCommand).name = s.name := rfl
@[simp] theorem State.startCommand_pass : (s.startCommand).pass = s.pass := rfl
@[simp] theorem State.startCommand_sr : (s.startCommand).sr = s.sr := rfl
@[simp] theorem State.startCommand_rr : (s.startCommand).rr = s.rr := rfl
@[simp] theorem State.startCommand_nonce : (s.startCommand).nonce = s.nonce := rfl
@[simp] theorem State.startCommand_addr : (s.startCommand).addr = s.addr := rfl
@[simp] theorem State.startCommand_seq : (s.startCommand).seq = s.seq := rfl
@[simp] theorem State.startCommand_mac : (s.startCommand).mac = s.mac := rfl
@[simp] theorem State.startCommand_mem : (s.startCommand).mem = s.mem := rfl
@[simp] theorem State.startCommand_pace : (s.startCommand).pace = s.pace.begin := rfl
@[simp] theorem State.startCommand_host : (s.startCommand).host = s.host := rfl

/-! `State.clearStatus` -/

@[simp] theorem State.clearStatus_op (b : Byte) : (s.clearStatus b).op = s.op := rfl
@[simp] theorem State.clearStatus_busy (b : Byte) : (s.clearStatus b).busy = s.busy := rfl
@[simp] theorem State.clearStatus_done (b : Byte) : (s.clearStatus b).done = (s.done && !b.getLsbD 1) := rfl
@[simp] theorem State.clearStatus_err (b : Byte) : (s.clearStatus b).err = (s.err && !b.getLsbD 2) := rfl
@[simp] theorem State.clearStatus_ovr (b : Byte) : (s.clearStatus b).ovr = (s.ovr && !b.getLsbD 3) := rfl
@[simp] theorem State.clearStatus_ecode (b : Byte) : (s.clearStatus b).ecode = s.ecode := rfl
@[simp] theorem State.clearStatus_resp (b : Byte) : (s.clearStatus b).resp = s.resp := rfl
@[simp] theorem State.clearStatus_ie (b : Byte) : (s.clearStatus b).ie = s.ie := rfl
@[simp] theorem State.clearStatus_olen (b : Byte) : (s.clearStatus b).olen = s.olen := rfl
@[simp] theorem State.clearStatus_nlen (b : Byte) : (s.clearStatus b).nlen = s.nlen := rfl
@[simp] theorem State.clearStatus_wlen (b : Byte) : (s.clearStatus b).wlen = s.wlen := rfl
@[simp] theorem State.clearStatus_dlen (b : Byte) : (s.clearStatus b).dlen = s.dlen := rfl
@[simp] theorem State.clearStatus_dest (b : Byte) : (s.clearStatus b).dest = s.dest := rfl
@[simp] theorem State.clearStatus_opc (b : Byte) : (s.clearStatus b).opc = s.opc := rfl
@[simp] theorem State.clearStatus_key (b : Byte) : (s.clearStatus b).key = s.key := rfl
@[simp] theorem State.clearStatus_name (b : Byte) : (s.clearStatus b).name = s.name := rfl
@[simp] theorem State.clearStatus_pass (b : Byte) : (s.clearStatus b).pass = s.pass := rfl
@[simp] theorem State.clearStatus_sr (b : Byte) : (s.clearStatus b).sr = s.sr := rfl
@[simp] theorem State.clearStatus_rr (b : Byte) : (s.clearStatus b).rr = s.rr := rfl
@[simp] theorem State.clearStatus_nonce (b : Byte) : (s.clearStatus b).nonce = s.nonce := rfl
@[simp] theorem State.clearStatus_addr (b : Byte) : (s.clearStatus b).addr = s.addr := rfl
@[simp] theorem State.clearStatus_seq (b : Byte) : (s.clearStatus b).seq = s.seq := rfl
@[simp] theorem State.clearStatus_mac (b : Byte) : (s.clearStatus b).mac = s.mac := rfl
@[simp] theorem State.clearStatus_mem (b : Byte) : (s.clearStatus b).mem = s.mem := rfl
@[simp] theorem State.clearStatus_pace (b : Byte) : (s.clearStatus b).pace = s.pace := rfl
@[simp] theorem State.clearStatus_host (b : Byte) : (s.clearStatus b).host = s.host := rfl

/-! `State.tick` -/

@[simp] theorem State.tick_op : (s.tick).op = s.op := rfl
@[simp] theorem State.tick_busy : (s.tick).busy = s.busy := rfl
@[simp] theorem State.tick_done : (s.tick).done = s.done := rfl
@[simp] theorem State.tick_err : (s.tick).err = s.err := rfl
@[simp] theorem State.tick_ovr : (s.tick).ovr = s.ovr := rfl
@[simp] theorem State.tick_ecode : (s.tick).ecode = s.ecode := rfl
@[simp] theorem State.tick_resp : (s.tick).resp = s.resp := rfl
@[simp] theorem State.tick_ie : (s.tick).ie = s.ie := rfl
@[simp] theorem State.tick_olen : (s.tick).olen = s.olen := rfl
@[simp] theorem State.tick_nlen : (s.tick).nlen = s.nlen := rfl
@[simp] theorem State.tick_wlen : (s.tick).wlen = s.wlen := rfl
@[simp] theorem State.tick_dlen : (s.tick).dlen = s.dlen := rfl
@[simp] theorem State.tick_dest : (s.tick).dest = s.dest := rfl
@[simp] theorem State.tick_opc : (s.tick).opc = s.opc := rfl
@[simp] theorem State.tick_key : (s.tick).key = s.key := rfl
@[simp] theorem State.tick_name : (s.tick).name = s.name := rfl
@[simp] theorem State.tick_pass : (s.tick).pass = s.pass := rfl
@[simp] theorem State.tick_sr : (s.tick).sr = s.sr := rfl
@[simp] theorem State.tick_rr : (s.tick).rr = s.rr := rfl
@[simp] theorem State.tick_nonce : (s.tick).nonce = s.nonce := rfl
@[simp] theorem State.tick_addr : (s.tick).addr = s.addr := rfl
@[simp] theorem State.tick_seq : (s.tick).seq = s.seq := rfl
@[simp] theorem State.tick_mac : (s.tick).mac = s.mac := rfl
@[simp] theorem State.tick_mem : (s.tick).mem = s.mem := rfl
@[simp] theorem State.tick_pace : (s.tick).pace = { s.pace with pending := s.pace.pending - 1 } := rfl
@[simp] theorem State.tick_host : (s.tick).host = s.host := rfl

/-! `State.withStarted` -/

@[simp] theorem State.withStarted_op (b : Byte) : (s.withStarted b).op = b := rfl
@[simp] theorem State.withStarted_busy (b : Byte) : (s.withStarted b).busy = true := rfl
@[simp] theorem State.withStarted_done (b : Byte) : (s.withStarted b).done = false := rfl
@[simp] theorem State.withStarted_err (b : Byte) : (s.withStarted b).err = false := rfl
@[simp] theorem State.withStarted_ovr (b : Byte) : (s.withStarted b).ovr = s.ovr := rfl
@[simp] theorem State.withStarted_ecode (b : Byte) : (s.withStarted b).ecode = ErrorCode.none := rfl
@[simp] theorem State.withStarted_resp (b : Byte) : (s.withStarted b).resp = s.resp := rfl
@[simp] theorem State.withStarted_ie (b : Byte) : (s.withStarted b).ie = s.ie := rfl
@[simp] theorem State.withStarted_olen (b : Byte) : (s.withStarted b).olen = s.olen := rfl
@[simp] theorem State.withStarted_nlen (b : Byte) : (s.withStarted b).nlen = s.nlen := rfl
@[simp] theorem State.withStarted_wlen (b : Byte) : (s.withStarted b).wlen = s.wlen := rfl
@[simp] theorem State.withStarted_dlen (b : Byte) : (s.withStarted b).dlen = s.dlen := rfl
@[simp] theorem State.withStarted_dest (b : Byte) : (s.withStarted b).dest = s.dest := rfl
@[simp] theorem State.withStarted_opc (b : Byte) : (s.withStarted b).opc = s.opc := rfl
@[simp] theorem State.withStarted_key (b : Byte) : (s.withStarted b).key = s.key := rfl
@[simp] theorem State.withStarted_name (b : Byte) : (s.withStarted b).name = s.name := rfl
@[simp] theorem State.withStarted_pass (b : Byte) : (s.withStarted b).pass = s.pass := rfl
@[simp] theorem State.withStarted_sr (b : Byte) : (s.withStarted b).sr = s.sr := rfl
@[simp] theorem State.withStarted_rr (b : Byte) : (s.withStarted b).rr = s.rr := rfl
@[simp] theorem State.withStarted_nonce (b : Byte) : (s.withStarted b).nonce = s.nonce := rfl
@[simp] theorem State.withStarted_addr (b : Byte) : (s.withStarted b).addr = s.addr := rfl
@[simp] theorem State.withStarted_seq (b : Byte) : (s.withStarted b).seq = s.seq := rfl
@[simp] theorem State.withStarted_mac (b : Byte) : (s.withStarted b).mac = s.mac := rfl
@[simp] theorem State.withStarted_mem (b : Byte) : (s.withStarted b).mem = s.mem := rfl
@[simp] theorem State.withStarted_pace (b : Byte) : (s.withStarted b).pace = { s.pace with pending := 0 } := rfl
@[simp] theorem State.withStarted_host (b : Byte) : (s.withStarted b).host = s.host := rfl

/-! `State.zeroed` -/

@[simp] theorem State.zeroed_op : (s.zeroed).op = s.op := rfl
@[simp] theorem State.zeroed_busy : (s.zeroed).busy = s.busy := rfl
@[simp] theorem State.zeroed_done : (s.zeroed).done = s.done := rfl
@[simp] theorem State.zeroed_err : (s.zeroed).err = s.err := rfl
@[simp] theorem State.zeroed_ovr : (s.zeroed).ovr = s.ovr := rfl
@[simp] theorem State.zeroed_ecode : (s.zeroed).ecode = s.ecode := rfl
@[simp] theorem State.zeroed_resp : (s.zeroed).resp = Resp.none := rfl
@[simp] theorem State.zeroed_ie : (s.zeroed).ie = s.ie := rfl
@[simp] theorem State.zeroed_olen : (s.zeroed).olen = 0 := rfl
@[simp] theorem State.zeroed_nlen : (s.zeroed).nlen = 0 := rfl
@[simp] theorem State.zeroed_wlen : (s.zeroed).wlen = 0 := rfl
@[simp] theorem State.zeroed_dlen : (s.zeroed).dlen = 0 := rfl
@[simp] theorem State.zeroed_dest : (s.zeroed).dest = 0 := rfl
@[simp] theorem State.zeroed_opc : (s.zeroed).opc = 0 := rfl
@[simp] theorem State.zeroed_key : (s.zeroed).key = zeros 16 := rfl
@[simp] theorem State.zeroed_name : (s.zeroed).name = zeros 16 := rfl
@[simp] theorem State.zeroed_pass : (s.zeroed).pass = zeros 16 := rfl
@[simp] theorem State.zeroed_sr : (s.zeroed).sr = zeros 8 := rfl
@[simp] theorem State.zeroed_rr : (s.zeroed).rr = zeros 8 := rfl
@[simp] theorem State.zeroed_nonce : (s.zeroed).nonce = zeros 8 := rfl
@[simp] theorem State.zeroed_addr : (s.zeroed).addr = zeros 4 := rfl
@[simp] theorem State.zeroed_seq : (s.zeroed).seq = zeros 3 := rfl
@[simp] theorem State.zeroed_mac : (s.zeroed).mac = zeros 16 := rfl
@[simp] theorem State.zeroed_mem : (s.zeroed).mem = (s.mem.replace Reg.din.offset Reg.din.size []).replace Reg.out.offset Reg.out.size [] := rfl
@[simp] theorem State.zeroed_pace : (s.zeroed).pace = s.pace := rfl
@[simp] theorem State.zeroed_host : (s.zeroed).host = s.host := rfl

/-! `State.resetEngine`: the registers are those of `State.reset`. -/

@[simp] theorem State.resetEngine_op : s.resetEngine.op = State.reset.op := rfl
@[simp] theorem State.resetEngine_busy : s.resetEngine.busy = State.reset.busy := rfl
@[simp] theorem State.resetEngine_done : s.resetEngine.done = State.reset.done := rfl
@[simp] theorem State.resetEngine_err : s.resetEngine.err = State.reset.err := rfl
@[simp] theorem State.resetEngine_ovr : s.resetEngine.ovr = State.reset.ovr := rfl
@[simp] theorem State.resetEngine_ecode : s.resetEngine.ecode = State.reset.ecode := rfl
@[simp] theorem State.resetEngine_resp : s.resetEngine.resp = State.reset.resp := rfl
@[simp] theorem State.resetEngine_ie : s.resetEngine.ie = State.reset.ie := rfl
@[simp] theorem State.resetEngine_olen : s.resetEngine.olen = State.reset.olen := rfl
@[simp] theorem State.resetEngine_nlen : s.resetEngine.nlen = State.reset.nlen := rfl
@[simp] theorem State.resetEngine_wlen : s.resetEngine.wlen = State.reset.wlen := rfl
@[simp] theorem State.resetEngine_dlen : s.resetEngine.dlen = State.reset.dlen := rfl
@[simp] theorem State.resetEngine_dest : s.resetEngine.dest = State.reset.dest := rfl
@[simp] theorem State.resetEngine_opc : s.resetEngine.opc = State.reset.opc := rfl
@[simp] theorem State.resetEngine_key : s.resetEngine.key = State.reset.key := rfl
@[simp] theorem State.resetEngine_name : s.resetEngine.name = State.reset.name := rfl
@[simp] theorem State.resetEngine_pass : s.resetEngine.pass = State.reset.pass := rfl
@[simp] theorem State.resetEngine_sr : s.resetEngine.sr = State.reset.sr := rfl
@[simp] theorem State.resetEngine_rr : s.resetEngine.rr = State.reset.rr := rfl
@[simp] theorem State.resetEngine_nonce : s.resetEngine.nonce = State.reset.nonce := rfl
@[simp] theorem State.resetEngine_addr : s.resetEngine.addr = State.reset.addr := rfl
@[simp] theorem State.resetEngine_seq : s.resetEngine.seq = State.reset.seq := rfl
@[simp] theorem State.resetEngine_mac : s.resetEngine.mac = State.reset.mac := rfl
@[simp] theorem State.resetEngine_mem : s.resetEngine.mem = State.reset.mem := rfl
@[simp] theorem State.resetEngine_pace : s.resetEngine.pace = { s.pace with pending := 0 } := rfl
@[simp] theorem State.resetEngine_host : s.resetEngine.host = s.host := rfl

/-! The host agent's updates. -/

variable (h : HostAgent)

@[simp] theorem HostAgent.record_script (x : BusAnswer) : (h.record x).script = h.script := rfl
@[simp] theorem HostAgent.record_line (x : BusAnswer) : (h.record x).line = h.line := rfl
@[simp] theorem HostAgent.record_temps (x : BusAnswer) : (h.record x).temps = h.temps := rfl
@[simp] theorem HostAgent.record_answers (x : BusAnswer) : (h.record x).answers = x :: h.answers := rfl
@[simp] theorem HostAgent.goto_script (n : Nat) : (h.goto n).script = h.script := rfl
@[simp] theorem HostAgent.goto_line (n : Nat) : (h.goto n).line = n := rfl
@[simp] theorem HostAgent.goto_temps (n : Nat) : (h.goto n).temps = h.temps := rfl
@[simp] theorem HostAgent.goto_answers (n : Nat) : (h.goto n).answers = h.answers := rfl
@[simp] theorem HostAgent.setTemp_script (t : Nat) (v : Word32) : (h.setTemp t v).script = h.script := rfl
@[simp] theorem HostAgent.setTemp_line (t : Nat) (v : Word32) : (h.setTemp t v).line = h.line := rfl
@[simp] theorem HostAgent.setTemp_temps (t : Nat) (v : Word32) : (h.setTemp t v).temps = h.temps.filter (fun c => decide (c.1 < t)) ++ (t, v) :: h.temps.filter (fun c => decide (t < c.1)) := rfl
@[simp] theorem HostAgent.setTemp_answers (t : Nat) (v : Word32) : (h.setTemp t v).answers = h.answers := rfl

end Sys2Proof.Machine
end

