-- ==== Sys2Proof/Laws/Ops.lean ====
section
/-! SUPPORT. What the shared operations do to the bytes of the registers. -/

namespace Sys2Proof.Machine

variable (s : State)

/-! Bytes of the two buffers depend on `mem` alone. -/

@[simp] theorem State.succeed_outByte (i : Nat) : s.succeed.outByte i = s.outByte i := rfl
@[simp] theorem State.succeed_dinByte (i : Nat) : s.succeed.dinByte i = s.dinByte i := rfl
@[simp] theorem State.failWith_outByte (e : ErrorCode) (i : Nat) : (s.failWith e).outByte i = s.outByte i := rfl
@[simp] theorem State.failWith_dinByte (e : ErrorCode) (i : Nat) : (s.failWith e).dinByte i = s.dinByte i := rfl

/-- R94: after a result is put in `OUT`, byte `i` is the result's, and 0x00 past its end. -/
theorem State.setOut_outByte (r : List Byte) {i : Nat} (hi : i < Reg.out.size) :
    (s.setOut r).outByte i = r.getD i 0x00 := by
  simp only [State.outByte, State.setOut_mem, Memory.read_replace]
  rw [if_pos ⟨by omega, by omega⟩, Nat.add_sub_cancel_left]
  simp [List.getD_eq_getElem?_getD, hi, Memory.unlisted]

/-- R94: `DIN` keeps its bytes when a result is put in `OUT`. -/
theorem State.setOut_dinByte (r : List Byte) {i : Nat} (hi : i < Reg.din.size) :
    (s.setOut r).dinByte i = s.dinByte i := by
  simp only [State.dinByte, State.setOut_mem, Memory.read_replace]
  rw [if_neg]
  simp only [Reg.offset, Reg.size] at *
  omega

/-- R12: `OLEN` is the result's length. -/
theorem State.setOut_olen_toNat (r : List Byte) (h : r.length < 256) : (s.setOut r).olen.toNat = r.length := by
  simp only [State.setOut_olen, BitVec.toNat_ofNat]
  exact Nat.mod_eq_of_lt h

/-- A result put in `OUT` leaves every other byte of the memory as it was. -/
theorem State.setOut_read (r : List Byte) {a : Nat} (h : a < Reg.out.offset ∨ Reg.out.offset + Reg.out.size ≤ a) :
    (s.setOut r).mem.read a = s.mem.read a := by
  rw [State.setOut_mem, Memory.read_replace, if_neg (by omega)]

/-! Lengths of the byte strings that commands put in `OUT`. -/

@[simp] theorem State.input_length : s.input.length = s.dlen.toNat := by simp [State.input]

end Sys2Proof.Machine
end

