-- ==== Sys2Proof/Laws/Window.lean ====
section
/-! SUPPORT. The register map (10_state.md section 2) and what a host write can do, said once. -/

namespace Sys2Proof.Machine

/-- R27: byte `i` of a register lies at its offset plus `i`, and no other register's byte does. -/
theorem Reg.at?_offset (r : Reg) {i : Nat} (hi : i < r.size) : Reg.at? (r.offset + i) = some (r, i) := by
  have key : ∀ (r : Reg) (i : Fin 256), i.val < r.size → Reg.at? (r.offset + i.val) = some (r, i.val) := by
    intro r; cases r <;> decide +kernel
  have : r.size ≤ 256 := by cases r <;> decide
  exact key r ⟨i, by omega⟩ hi

/-- What `Reg.at?` finds: the byte of the register that lies there. -/
theorem Reg.at?_some {o i : Nat} {r : Reg} (h : Reg.at? o = some (r, i)) : o = r.offset + i ∧ i < r.size := by
  unfold Reg.at? at h
  obtain ⟨r', hr', h'⟩ := Option.map_eq_some_iff.mp h
  obtain ⟨rfl, rfl⟩ := Prod.mk.inj h'
  have := List.find?_some hr'
  simp only [decide_eq_true_eq] at this
  omega

variable (s : State)

/-- R27, R32: reading at a register's byte. -/
@[simp] theorem State.readByte_offset (r : Reg) {i : Nat} (hi : i < r.size) :
    s.readByte (r.offset + i) = s.regByte r i := by
  simp [State.readByte, Reg.at?_offset r hi]

/-- R32: a reserved byte reads 0x00. -/
theorem State.readByte_reserved {o : Nat} (h : Reg.at? o = none) : s.readByte o = 0x00 := by
  simp [State.readByte, h]

/-- A write to a window byte changes no field of the model's own and no read-only state. -/
theorem State.writeByte_keeps (o : Nat) (b : Byte) :
    (s.writeByte o b).busy = s.busy ∧ (s.writeByte o b).ecode = s.ecode ∧ (s.writeByte o b).resp = s.resp ∧
    (s.writeByte o b).olen = s.olen ∧ (s.writeByte o b).mac = s.mac ∧
    (s.writeByte o b).pace = s.pace ∧ (s.writeByte o b).host = s.host := by
  unfold State.writeByte
  split
  · rename_i r i h
    cases r <;> simp only [State.writeReg] <;> (try split) <;> simp
  · simp

/-- The same of a write of several bytes. -/
theorem State.writeLanes_keeps (a : Nat) (v : Word32) (n : Nat) :
    (s.writeLanes a v n).busy = s.busy ∧ (s.writeLanes a v n).ecode = s.ecode ∧ (s.writeLanes a v n).resp = s.resp ∧
    (s.writeLanes a v n).olen = s.olen ∧ (s.writeLanes a v n).mac = s.mac ∧
    (s.writeLanes a v n).pace = s.pace ∧ (s.writeLanes a v n).host = s.host := by
  induction n with
  | zero => simp [State.writeLanes]
  | succ n ih =>
    obtain ⟨h1, h2, h3, h4, h5, h6, h7⟩ := ih
    obtain ⟨k1, k2, k3, k4, k5, k6, k7⟩ := (s.writeLanes a v n).writeByte_keeps (a + n) (v.extractLsb' (8 * n) 8)
    exact ⟨k1.trans h1, k2.trans h2, k3.trans h3, k4.trans h4, k5.trans h5, k6.trans h6, k7.trans h7⟩

/-- Everything a host write can do (R26, R28, R29, R33, R35). -/
theorem State.hostWrite_cases (a n : Nat) (v : Word32) :
    (Config.windowSize ≤ a ∧ s.hostWrite a n v = (s, .notReached)) ∨
    (a < Config.windowSize ∧ accessOk a n = false ∧ s.hostWrite a n v = (s, .busError)) ∨
    (a < Config.windowSize ∧ accessOk a n = true ∧ s.busy = true ∧ ¬ (0x004 ≤ a ∧ a ≤ 0x00B) ∧
      s.hostWrite a n v = ({ s with ovr := true }, .ok)) ∨
    (a = 0x000 ∧ accessOk a n = true ∧ s.busy = false ∧
      s.hostWrite a n v = ((s.writeLanes a v n).startCommand, .ok)) ∨
    (a < Config.windowSize ∧ a ≠ 0x000 ∧ accessOk a n = true ∧ (s.busy = true → 0x004 ≤ a ∧ a ≤ 0x00B) ∧
      s.hostWrite a n v = (s.writeLanes a v n, .ok)) := by
  unfold State.hostWrite
  by_cases hw : Config.windowSize ≤ a
  · exact .inl ⟨hw, if_pos hw⟩
  rw [if_neg hw]
  by_cases hok : accessOk a n = true
  · rw [if_pos hok]
    by_cases hb : (s.busy && !(decide (0x004 ≤ a) && decide (a ≤ 0x00B))) = true
    · rw [if_pos hb]
      simp only [Bool.and_eq_true, Bool.not_eq_true', Bool.and_eq_false_iff, decide_eq_false_iff_not] at hb
      exact .inr (.inr (.inl ⟨by omega, hok, hb.1, by omega, rfl⟩))
    · rw [if_neg hb]
      have hb' : s.busy = true → 0x004 ≤ a ∧ a ≤ 0x00B := by
        intro h; simpa [h] using hb
      by_cases h0 : a = 0x000
      · rw [if_pos h0]
        refine .inr (.inr (.inr (.inl ⟨h0, hok, ?_, rfl⟩)))
        cases hbb : s.busy with
        | false => rfl
        | true => have := hb' hbb; omega
      · rw [if_neg h0]
        exact .inr (.inr (.inr (.inr ⟨by omega, h0, hok, hb', rfl⟩)))
  · rw [if_neg hok]
    exact .inr (.inl ⟨by omega, by simpa using hok, rfl⟩)

end Sys2Proof.Machine
end

