-- ==== Sys2Proof/Laws/Frame.lean ====
section
/-! SUPPORT. What the ends of a command and the result buffer do to the bytes of the registers: the frame lemmas of the
shared operations. -/

namespace Sys2Proof.Machine

variable (s : State)

/-- A result put in `OUT` changes no byte of a register but `OUT` and `OLEN`. -/
theorem State.setOut_regByte (r : List Byte) {q : Reg} (k : Nat) (h : q ≠ .out) (h' : q ≠ .olen) :
    (s.setOut r).regByte q k = s.regByte q k := by
  cases q
  case out => exact absurd rfl h
  case olen => exact absurd rfl h'
  case din =>
    simp only [State.regByte]
    split
    · rename_i hk; exact s.setOut_dinByte r hk
    · rfl
  all_goals simp [State.regByte, State.statusByte, State.ctrlByte, State.statusLow]

/-- The end of a command that succeeds changes no byte of a register but `STATUS`. -/
theorem State.succeed_regByte {q : Reg} (k : Nat) (h : q ≠ .status) : s.succeed.regByte q k = s.regByte q k := by
  cases q <;> first | rfl | exact absurd rfl h

/-- R99: the end of a command that fails changes no byte of a register but `STATUS`. -/
theorem State.failWith_regByte (e : ErrorCode) {q : Reg} (k : Nat) (h : q ≠ .status) :
    (s.failWith e).regByte q k = s.regByte q k := by
  cases q <;> first | rfl | exact absurd rfl h

theorem State.succeed_succeeded : s.succeed.Succeeded := ⟨rfl, rfl, rfl, rfl⟩

theorem State.failWith_failed (e : ErrorCode) : (s.failWith e).Failed e := ⟨rfl, rfl, rfl, rfl⟩

/-- R99: the frame of a failing command. -/
theorem State.failWith_keeps (e : ErrorCode) (rs : List Reg) : s.Keeps (s.failWith e) rs :=
  ⟨fun _ k hq _ => s.failWith_regByte e k hq, by simp, fun _ _ _ => by simp, by simp, by simp⟩

/-- R94: the frame of a command that writes `OUT`, `OLEN` and, before them, only registers of `rs`. -/
theorem State.setOut_keeps {u : State} (r : List Byte) {rs : List Reg} (h : s.Keeps u rs) (ho : Reg.out ∈ rs)
    (hl : Reg.olen ∈ rs) : s.Keeps (u.setOut r).succeed rs := by
  obtain ⟨h1, h2, h3, h4, h5⟩ := h
  refine ⟨fun q k hq hr => ?_, by simpa using h2, fun a hd h => ?_, by simpa using h4, by simpa using h5⟩
  · have hqo : q ≠ .out := by rintro rfl; exact hr ho
    have hql : q ≠ .olen := by rintro rfl; exact hr hl
    rw [State.succeed_regByte _ _ hq, State.setOut_regByte _ _ _ hqo hql]
    exact h1 q k hq hr
  · rw [State.succeed_mem, u.setOut_read r (h ho)]
    exact h3 a hd h

theorem State.keeps_refl (rs : List Reg) : s.Keeps s rs :=
  ⟨fun _ _ _ _ => rfl, rfl, fun _ _ _ => rfl, rfl, rfl⟩

/-- R94, R12: what `OUT` and `OLEN` hold after a result is put there. -/
theorem State.setOut_outIs (r : List Byte) (h : r.length < 256) : (s.setOut r).succeed.OutIs r :=
  ⟨by simpa using s.setOut_olen_toNat r h, fun _ hi => by simpa using s.setOut_outByte r hi⟩

end Sys2Proof.Machine
end

