-- ==== Sys2Proof/Laws/Step.lean ====
section
/-! SUPPORT. What a step can do, said once. -/

namespace Sys2Proof.Machine

variable {s t : State}

/-- Everything the completion of a command can do to what no command writes: it fails and writes only `STATUS` (R99), or
it succeeds from a state that agrees with the old one on `OP`, `OVR`, `IE` and the model's own fields (R91, R97). -/
theorem exec_cases (i : Instr) (s : State) :
    (∃ e, e ≠ ErrorCode.none ∧ exec i s = .next (s.failWith e)) ∨
    ∃ u : State, exec i s = .next u.succeed ∧ u.op = s.op ∧ u.ovr = s.ovr ∧ u.ie = s.ie ∧ u.pace = s.pace ∧
      u.host = s.host := by
  cases i
  case encblk =>
    simp only [exec, execEncblk]
    split
    · exact .inr ⟨_, rfl, by simp⟩
    · exact .inl ⟨_, by decide, rfl⟩
  case cmdpkt =>
    simp only [exec, execCmdpkt]
    split
    · exact .inl ⟨_, by decide, rfl⟩
    · exact .inr ⟨_, rfl, by simp⟩
  case rspPair =>
    simp only [exec, execRspPair]
    split
    · exact .inr ⟨_, rfl, by simp⟩
    · split
      · exact .inr ⟨_, rfl, by simp⟩
      · exact .inr ⟨_, rfl, by simp⟩
  case rspReconf =>
    simp only [exec, execRspReconf]
    split
    · exact .inr ⟨_, rfl, by simp⟩
    · split
      · exact .inr ⟨_, rfl, by simp⟩
      · exact .inr ⟨_, rfl, by simp⟩
  case reserved00 | reserved0D | reserved0E | reserved10 | reserved20 | reserved40 | reserved80 =>
    exact .inl ⟨.badcmd, by decide, rfl⟩
  all_goals exact .inr ⟨_, rfl, by simp⟩

/-- The engine's turn. -/
theorem step_engine (h : s.engineTurn = true) : step s = exec (decodeOp s.op) s := by
  simp [step, h, State.command]

/-- The environment's turn. -/
theorem step_host (h : s.engineTurn = false) : step s = .next s.hostTurn := by simp [step, h]

/-- Everything a step can do: the running command completes, the script is over and nothing happens, or the host
executes one line. -/
theorem step_cases (h : step s = .next t) :
    (s.engineTurn = true ∧ exec (decodeOp s.op) s = .next t) ∨
    (s.engineTurn = false ∧ s.host.current = none ∧ t = s) ∨
    (s.engineTurn = false ∧ ∃ ln, s.host.current = some ln ∧ t = s.tick.hostLine ln) := by
  cases he : s.engineTurn with
  | true => exact .inl ⟨rfl, (step_engine he).symm.trans h⟩
  | false =>
    rw [step_host he] at h
    cases h
    cases hc : s.host.current with
    | none => exact .inr (.inl ⟨rfl, rfl, by simp [State.hostTurn, hc]⟩)
    | some ln => exact .inr (.inr ⟨rfl, ln, rfl, by simp [State.hostTurn, hc]⟩)

/-- While a command runs, the engine's turn comes exactly when its latency is over or the host has no line left. -/
theorem engineTurn_iff : s.engineTurn = true ↔ s.busy = true ∧ (s.pace.pending = 0 ∨ s.host.current = none) := by
  simp [State.engineTurn]

end Sys2Proof.Machine
end

