-- ==== Sys2Proof/Laws/Host.lean ====
section
/-! SUPPORT. What the host's lines do while a command runs, its temporaries, and runs of several steps. -/

namespace Sys2Proof.Machine

/-- The accepted widths and alignments (R28, R29). -/
theorem accessOk_iff (a n : Nat) : accessOk a n = true ↔ n = 1 ∨ (n = 4 ∧ a % 4 = 0) := by simp [accessOk]

/-- A temporary holds what was put in it last. -/
@[simp] theorem HostAgent.temp_setTemp (h : HostAgent) (t : Nat) (v : Word32) : (h.setTemp t v).temp t = v := by
  have : (h.temps.filter fun c => decide (c.1 < t)).find? (fun c => c.1 == t) = none := by
    simp only [List.find?_eq_none, List.mem_filter, decide_eq_true_eq, beq_iff_eq]
    rintro c ⟨-, hc⟩; omega
  simp [HostAgent.temp, HostAgent.setTemp, List.find?_append, this]

/-- The two states agree on everything a command reads, and on all a host may not change while `BUSY` = 1 (R35):
everything but the clearable bits of `STATUS`, `IE`, and the model's own fields. -/
structure State.Agree (s u : State) : Prop where
  op    : u.op = s.op
  busy  : u.busy = s.busy
  ecode : u.ecode = s.ecode
  resp  : u.resp = s.resp
  olen  : u.olen = s.olen
  nlen  : u.nlen = s.nlen
  wlen  : u.wlen = s.wlen
  dlen  : u.dlen = s.dlen
  dest  : u.dest = s.dest
  opc   : u.opc = s.opc
  key   : u.key = s.key
  name  : u.name = s.name
  pass  : u.pass = s.pass
  sr    : u.sr = s.sr
  rr    : u.rr = s.rr
  nonce : u.nonce = s.nonce
  addr  : u.addr = s.addr
  seq   : u.seq = s.seq
  mac   : u.mac = s.mac
  mem   : u.mem = s.mem

namespace State.Agree

variable {s u w : State}

theorem refl (s : State) : s.Agree s := by constructor <;> rfl

theorem trans (h : s.Agree u) (k : u.Agree w) : s.Agree w :=
  ⟨k.op.trans h.op, k.busy.trans h.busy, k.ecode.trans h.ecode, k.resp.trans h.resp, k.olen.trans h.olen,
   k.nlen.trans h.nlen, k.wlen.trans h.wlen, k.dlen.trans h.dlen, k.dest.trans h.dest, k.opc.trans h.opc,
   k.key.trans h.key, k.name.trans h.name, k.pass.trans h.pass, k.sr.trans h.sr, k.rr.trans h.rr,
   k.nonce.trans h.nonce, k.addr.trans h.addr, k.seq.trans h.seq, k.mac.trans h.mac, k.mem.trans h.mem⟩

/-- Agreeing states have the same bytes in every register but `STATUS` and `CTRL`. -/
theorem regByte (h : s.Agree u) (r : Reg) (k : Nat) (h1 : r ≠ .status) (h2 : r ≠ .ctrl) :
    u.regByte r k = s.regByte r k := by
  cases r <;> first
    | exact absurd rfl h1
    | exact absurd rfl h2
    | simp only [State.regByte, State.dinByte, State.outByte, h.op, h.olen, h.nlen, h.wlen, h.dlen, h.dest, h.opc, h.key,
        h.name, h.pass, h.sr, h.rr, h.nonce, h.addr, h.seq, h.mac, h.mem]

end State.Agree

/-- A write to a byte of `STATUS` or `CTRL` changes nothing a command reads. -/
theorem State.writeByte_agree (s : State) (o : Nat) (b : Byte) (h1 : 0x004 ≤ o) (h2 : o ≤ 0x00B) :
    s.Agree (s.writeByte o b) := by
  have : o = 4 ∨ o = 5 ∨ o = 6 ∨ o = 7 ∨ o = 8 ∨ o = 9 ∨ o = 10 ∨ o = 11 := by omega
  rcases this with rfl | rfl | rfl | rfl | rfl | rfl | rfl | rfl <;> constructor <;> rfl

theorem State.writeLanes_agree (s : State) (a : Nat) (v : Word32) :
    ∀ n, 0x004 ≤ a → a + n ≤ 0x00C → s.Agree (s.writeLanes a v n)
  | 0, _, _ => .refl _
  | n + 1, h1, h2 =>
    (s.writeLanes_agree a v n h1 (by omega)).trans (State.writeByte_agree _ _ _ (by omega) (by omega))

/-- R35: no host write changes what the running command reads. -/
theorem State.hostWrite_agree {s : State} (hb : s.busy = true) (a n : Nat) (v : Word32) :
    s.Agree (s.hostWrite a n v).1 ∧ (s.hostWrite a n v).1.pace = s.pace ∧ (s.hostWrite a n v).1.host = s.host := by
  rcases s.hostWrite_cases a n v with ⟨-, h⟩ | ⟨-, -, h⟩ | ⟨-, -, -, -, h⟩ | ⟨-, -, h', h⟩ | ⟨-, -, hok, hw, h⟩
  · rw [h]; exact ⟨.refl _, rfl, rfl⟩
  · rw [h]; exact ⟨.refl _, rfl, rfl⟩
  · rw [h]; exact ⟨by constructor <;> rfl, rfl, rfl⟩
  · rw [hb] at h'; cases h'
  · rw [h]
    have h1 := hw hb
    have h2 := (accessOk_iff a n).mp hok
    exact ⟨s.writeLanes_agree a v n h1.1 (by omega), (s.writeLanes_keeps a v n).2.2.2.2.2.1,
      (s.writeLanes_keeps a v n).2.2.2.2.2.2⟩

/-- R35: while a command runs, no line of the host's but a reset changes what it reads, how long it still takes, or the
script. -/
theorem State.hostLine_agree {s : State} (hb : s.busy = true) {ln : Line} (hr : ln ≠ .reset) :
    s.Agree (s.hostLine ln) ∧ (s.hostLine ln).pace = s.pace ∧ (s.hostLine ln).host.script = s.host.script := by
  cases ln with
  | write off w src =>
    obtain ⟨h1, h2, -⟩ := State.hostWrite_agree hb off w (s.host.value src)
    exact ⟨h1.trans (by constructor <;> rfl), h2, rfl⟩
  | read off w t => exact ⟨by constructor <;> rfl, rfl, rfl⟩
  | bit1 t k g => exact ⟨by constructor <;> rfl, rfl, rfl⟩
  | reset => exact absurd rfl hr

theorem State.tick_agree (s : State) : s.Agree s.tick := by constructor <;> rfl

/-! Runs. -/

@[simp] theorem run_zero (s : State) : Host.Core.run Sys2Proof.core 0 s = .next s := rfl

/-- A run goes on from where its first step leads. -/
theorem run_succ (n : Nat) {s t : State} (h : step s = .next t) :
    Host.Core.run Sys2Proof.core (n + 1) s = Host.Core.run Sys2Proof.core n t := by
  have h' : Sys2Proof.core.step s = .next t := h
  simp only [Host.Core.run, h']

end Sys2Proof.Machine
end

