-- ==== Sys2Proof/Laws/PerInstr.lean ====
section
/-! SUPPORT. Statements made of every instruction, one lemma per constructor. -/

namespace Sys2Proof.Laws

/-- R42, spec/opcode_table.json: the encoding of a well-formed command is a word of its row, `(v AND mask) = match`. -/
def EncodingOnRow.Statement (i : Instr) : Prop :=
  i.wellFormed = true → encodeOp i &&& i.row.1 = i.row.2

namespace EncodingOnRow

theorem encblk : Statement .encblk := fun _ => by decide
theorem keymat : Statement .keymat := fun _ => by decide
theorem kdf : Statement .kdf := fun _ => by decide
theorem pair : Statement .pair := fun _ => by decide
theorem mac : Statement .mac := fun _ => by decide
theorem ctr : Statement .ctr := fun _ => by decide
theorem cmdpkt : Statement .cmdpkt := fun _ => by decide
theorem reconfName : Statement .reconfName := fun _ => by decide
theorem reconfPass : Statement .reconfPass := fun _ => by decide
theorem reconfLtk : Statement .reconfLtk := fun _ => by decide
theorem rspPair : Statement .rspPair := fun _ => by decide
theorem rspReconf : Statement .rspReconf := fun _ => by decide
theorem zeroize : Statement .zeroize := fun _ => by decide
theorem reserved00 : Statement .reserved00 := fun _ => by decide
theorem reserved0D : Statement .reserved0D := fun _ => by decide
theorem reserved0E : Statement .reserved0E := fun _ => by decide
theorem reserved10 (op : Byte) : Statement (.reserved10 op) := fun h => by simpa [Instr.wellFormed, encodeOp, Instr.row] using h
theorem reserved20 (op : Byte) : Statement (.reserved20 op) := fun h => by simpa [Instr.wellFormed, encodeOp, Instr.row] using h
theorem reserved40 (op : Byte) : Statement (.reserved40 op) := fun h => by simpa [Instr.wellFormed, encodeOp, Instr.row] using h
theorem reserved80 (op : Byte) : Statement (.reserved80 op) := fun h => by simpa [Instr.wellFormed, encodeOp, Instr.row] using h

end EncodingOnRow

end Sys2Proof.Laws
end

