-- ==== Sys2Proof/Tests/Slice0.lean ====
section
/-! SUPPORT. The model's own tests. Expected results are the spec's: the table of 30_encoding.md R44, spec/opcode_table.json,
and the vectors of 95_test_vectors.md (named in each docstring). After them, for every statement with hypotheses, a
concrete input that meets them. -/

namespace Sys2Proof.Tests

open Sys2Proof.Machine

/-! ## Well-formedness and decoding -/

/-- 0x20 is not on the row 0x10 to 0x1F. -/
theorem test_illFormed_reserved10 : (Instr.reserved10 0x20).wellFormed = false := by decide
/-- 0x40 is not on the row 0x20 to 0x3F. -/
theorem test_illFormed_reserved20 : (Instr.reserved20 0x40).wellFormed = false := by decide
/-- 0x3F is not on the row 0x40 to 0x7F. -/
theorem test_illFormed_reserved40 : (Instr.reserved40 0x3F).wellFormed = false := by decide
/-- 0x7F is not on the row 0x80 to 0xFF. -/
theorem test_illFormed_reserved80 : (Instr.reserved80 0x7F).wellFormed = false := by decide

/-- R44: the words of the thirteen commands, bit by bit. -/
theorem test_decode_commands :
    [0b00000001, 0b00000010, 0b00000011, 0b00000100, 0b00000101, 0b00000110, 0b00000111, 0b00001000, 0b00001001,
     0b00001010, 0b00001011, 0b00001100, 0b00001111].map decodeOp =
    [Instr.encblk, .keymat, .kdf, .pair, .mac, .ctr, .cmdpkt, .reconfName, .reconfPass, .reconfLtk, .rspPair,
     .rspReconf, .zeroize] := by decide

/-- R44: the first and last words of the reserved rows, bit by bit. -/
theorem test_decode_reserved :
    [0b00000000, 0b00001101, 0b00001110, 0b00010000, 0b00011111, 0b00100000, 0b00111111, 0b01000000, 0b01111111,
     0b10000000, 0b11111111].map decodeOp =
    [Instr.reserved00, .reserved0D, .reserved0E, .reserved10 0x10, .reserved10 0x1F, .reserved20 0x20,
     .reserved20 0x3F, .reserved40 0x40, .reserved40 0x7F, .reserved80 0x80, .reserved80 0xFF] := by decide

/-- R42: a table word is one byte; an empty one and a longer one are refused. -/
theorem test_decodeTableWord :
    decodeTableWord 8 0x07 = some .cmdpkt ∧ decodeTableWord 0 0x07 = none ∧ decodeTableWord 16 0x0107 = none := by
  decide

theorem test_decode_noByte : decode [] = .error .noByte := rfl

/-- spec/opcode_table.json: no two of the twenty rows share a word. -/
theorem test_rows_disjoint :
    tableRows.Pairwise (fun x y => x.1 &&& y.1 &&& (x.2 ^^^ y.2) ≠ 0) := by decide

/-! ## AES and E_rev (95_test_vectors.md sections 1 and 2) -/

/-- R50, spot checks: S[0x00], S[0x01], S[0x53], S[0xff]. -/
theorem test_sbox : [0x00, 0x01, 0x53, 0xff].map sbox = [0x63, 0x7c, 0xed, 0x16] := by decide

/-- R49: xtime(0x57) = 0xae and 0x57 • 0x13 = 0xfe. -/
theorem test_gmul : xtime 0x57 = 0xae ∧ gmul 0x57 0x13 = 0xfe := by decide

/-- R50: the algebraic S-box at 0x53. -/
theorem test_affine_ginv : affine (ginv 0x53) = 0xed := by decide +kernel

/-- R56: round key 10 of the key of vector A2. -/
theorem test_keyExpansion :
    (keyExpansion #v[0x2b, 0x7e, 0x15, 0x16, 0x28, 0xae, 0xd2, 0xa6, 0xab, 0xf7, 0x15, 0x88, 0x09, 0xcf, 0x4f,
      0x3c]).drop 40 =
    [#v[0xd0, 0x14, 0xf9, 0xa8], #v[0xc9, 0xee, 0x25, 0x89], #v[0xe1, 0x3f, 0x0c, 0xc8], #v[0xb6, 0x63, 0x0c, 0xa6]] := by
  decide +kernel

/-- Vector A1 (FIPS-197 Appendix C.1). -/
theorem test_aes128_A1 :
    aes128 #v[0x00, 0x01, 0x02, 0x03, 0x04, 0x05, 0x06, 0x07, 0x08, 0x09, 0x0a, 0x0b, 0x0c, 0x0d, 0x0e, 0x0f]
      #v[0x00, 0x11, 0x22, 0x33, 0x44, 0x55, 0x66, 0x77, 0x88, 0x99, 0xaa, 0xbb, 0xcc, 0xdd, 0xee, 0xff] =
    #v[0x69, 0xc4, 0xe0, 0xd8, 0x6a, 0x7b, 0x04, 0x30, 0xd8, 0xcd, 0xb7, 0x80, 0x70, 0xb4, 0xc5, 0x5a] := by
  decide +kernel

/-! ## The commands, each one completion from a small state -/

/-- The state a command leaves. -/
def after : Answer → State
  | .next s => s
  | .fault _ | .refused _ => .reset

/-- A state whose `KEY` is `k` and whose `DIN` begins with `d`, with `DLEN` its length. -/
def loaded (k : Bytes 16) (d : List Byte) : State :=
  { State.reset with key := k, dlen := BitVec.ofNat 8 d.length, mem := Memory.cells 0x100 d }

/-- "unpaired" / "1234" with the session and response randoms of 95_test_vectors.md section 3. -/
def credentials : State :=
  { State.reset with
    name := #v[0x75, 0x6e, 0x70, 0x61, 0x69, 0x72, 0x65, 0x64, 0xaa, 0, 0, 0, 0, 0, 0, 0], nlen := 8
    pass := #v[0x31, 0x32, 0x33, 0x34, 0xaa, 0, 0, 0, 0, 0, 0, 0, 0, 0, 0, 0], wlen := 4
    sr := #v[1, 2, 3, 4, 5, 6, 7, 8], rr := #v[0x11, 0x12, 0x13, 0x14, 0x15, 0x16, 0x17, 0x18] }

/-- The key `00 01 ... 0f`. -/
def countKey : Bytes 16 := #v[0, 1, 2, 3, 4, 5, 6, 7, 8, 9, 10, 11, 12, 13, 14, 15]

/-- Session key D1. -/
def keyD1 : Bytes 16 :=
  #v[0x3c, 0x04, 0x8b, 0xe0, 0x1d, 0x57, 0x56, 0xb9, 0xcf, 0xb9, 0xc7, 0xe0, 0x79, 0x8f, 0x78, 0x71]

/-- The `DIN` of vectors B1 and E1. -/
def blockE1 : List Byte :=
  [0x00, 0x11, 0x22, 0x33, 0x44, 0x55, 0x66, 0x77, 0x88, 0x99, 0xaa, 0xbb, 0xcc, 0xdd, 0xee, 0xff]

/-- Vector B1. -/
theorem test_encblk_B1 :
    (after (exec .encblk (loaded countKey blockE1))).mem = Memory.cells 0x100 blockE1 ++ Memory.cells 0x200
      [0xd0, 0xbf, 0xe1, 0xc7, 0x9a, 0x57, 0xa7, 0xe7, 0x4b, 0x27, 0x6e, 0x90, 0xcc, 0xa5, 0xa7, 0x29] := by
  decide +kernel

/-- Vector B4: `STATUS` 0x26 and nothing else changes. -/
theorem test_encblk_B4 :
    let s := loaded countKey (blockE1 ++ [0x99])
    (after (exec .encblk s)).statusLow = 0x26 ∧ (after (exec .encblk s)).mem = s.mem := by decide

/-- Vectors K1 and K2: bytes beyond the lengths are masked. -/
theorem test_keymat_K2 :
    (after (exec .keymat credentials)).mem =
      Memory.cells 0x200 [0x44, 0x5c, 0x43, 0x55, 0x69, 0x72, 0x65, 0x64] := by decide

/-- Vector K3: a length above 16 truncates. -/
theorem test_keymat_K3 :
    pad16 #v[0x30, 0x31, 0x32, 0x33, 0x34, 0x35, 0x36, 0x37, 0x38, 0x39, 0x61, 0x62, 0x63, 0x64, 0x65, 0x66] 19 =
      #v[0x30, 0x31, 0x32, 0x33, 0x34, 0x35, 0x36, 0x37, 0x38, 0x39, 0x61, 0x62, 0x63, 0x64, 0x65, 0x66] := by decide

/-- Vector D1. -/
theorem test_kdf_D1 : (after (exec .kdf credentials)).key = keyD1 := by decide +kernel

/-- Vector P1. -/
theorem test_pair_P1 :
    (after (exec .pair credentials)).mem = Memory.cells 0x200
      [0x0c, 1, 2, 3, 4, 5, 6, 7, 8, 0x01, 0xa3, 0x56, 0x7c, 0x6b, 0x98, 0x7a, 0xfd] := by decide +kernel

/-- 95_test_vectors.md section 5, `L` = 17 (two chunks). -/
theorem test_mac_17 :
    (after (exec .mac { loaded countKey ((List.range 17).map fun i => 0xA0 + BitVec.ofNat 8 i) with
      nonce := #v[1, 2, 3, 4, 5, 6, 7, 8] })).mac =
    #v[0xbc, 0xbe, 0x5b, 0xdc, 0x8e, 0xb1, 0x4f, 0x25, 0xdf, 0x35, 0x3a, 0x4a, 0xfb, 0x8e, 0x69, 0xe6] := by
  decide +kernel

/-- 95_test_vectors.md section 5, `L` = 0: no chunk step. -/
theorem test_mac_0 :
    checksum countKey #v[1, 2, 3, 4, 5, 6, 7, 8] [] =
    #v[0x20, 0x4f, 0xf2, 0xee, 0x0d, 0xda, 0xbe, 0x83, 0xa4, 0x13, 0x5b, 0x45, 0x28, 0x50, 0xef, 0xad] := by
  decide +kernel

/-- 95_test_vectors.md section 6, `L` = 17 (the counter is 1 for the last byte). -/
theorem test_ctr_17 :
    crypt countKey #v[1, 2, 3, 4, 5, 6, 7, 8] ((List.range 17).map fun i => 0xA0 + BitVec.ofNat 8 i) =
    [0xce, 0xb4, 0x85, 0xe4, 0xc3, 0x8b, 0x06, 0x55, 0xd3, 0x2b, 0x3b, 0xd3, 0x85, 0x23, 0x14, 0x41, 0x41] := by
  decide +kernel

/-- 95_test_vectors.md section 6, `L` = 0: `OLEN` 0 and `OUT` zero. -/
theorem test_ctr_0 :
    let s := { State.reset with olen := 5, mem := [(0x200, 9), (0x204, 9)] }
    (after (exec .ctr s)).mem = [] ∧ (after (exec .ctr s)).olen = 0 := by decide

/-- The registers of vector M1. -/
def lightOn : State :=
  { loaded keyD1 [0x01] with addr := #v[0x11, 0x22, 0x33, 0x44], seq := #v[0x0a, 0x0b, 0x0c], opc := 0xD0 }

/-- Vector M1. -/
theorem test_cmdpkt_M1 :
    (after (exec .cmdpkt lightOn)).mem = Memory.cells 0x100 [0x01] ++ Memory.cells 0x200
      [0x0a, 0x0b, 0x0c, 0x1f, 0x1c, 0x20, 0x60, 0xdf, 0xb2, 0x6c, 0x32, 0x56, 0xa1, 0x0f, 0xb3, 0x24, 0xa4, 0x2e, 0x1f,
       0xa5] := by decide +kernel

/-- R83, and the errors of section 7: `DLEN` = 11 fails with LEN. -/
theorem test_cmdpkt_nonce_and_error :
    (after (exec .cmdpkt lightOn)).nonce = #v[0x44, 0x33, 0x22, 0x11, 0x01, 0x0a, 0x0b, 0x0c] ∧
    after (exec .cmdpkt { lightOn with dlen := 11 }) = { lightOn with dlen := 11, done := true, err := true, ecode := .len } := by
  decide

/-- Vector F1. -/
theorem test_reconfName_F1 :
    (after (exec .reconfName (loaded keyD1 [0x6e, 0x65, 0x77, 0x6d, 0x65, 0x73, 0x68]))).mem.drop 7 =
      Memory.cells 0x200 [0x04, 0x74, 0xbf, 0x75, 0x8a, 0x54, 0x59, 0x15, 0x6c, 0x2f, 0x70, 0x67, 0x45, 0x1d, 0xbc, 0x04,
        0xc5] := by decide +kernel

/-- Vector F2. -/
theorem test_reconfPass_F2 :
    (after (exec .reconfPass (loaded keyD1 [0x6e, 0x65, 0x77, 0x70, 0x61, 0x73, 0x73]))).mem.drop 7 =
      Memory.cells 0x200 [0x05, 0xcd, 0x24, 0xa4, 0x66, 0x55, 0x08, 0xf5, 0x27, 0x92, 0x7e, 0xc0, 0x09, 0x26, 0xc2, 0xa1,
        0x21] := by decide +kernel

/-- Vector F4: 17 bytes are truncated to 16. -/
theorem test_reconfLtk_F4 :
    (after (exec .reconfLtk (loaded keyD1 ((List.range 16).map (fun i => 0xA0 + BitVec.ofNat 8 i) ++ [0xff])))).mem.drop 17 =
      Memory.cells 0x200 [0x06, 0x13, 0x6d, 0x5d, 0x32, 0xc5, 0xb9, 0xf7, 0x12, 0x3e, 0x16, 0x84, 0x47, 0xb1, 0xc0, 0xe1,
        0xaf] := by decide +kernel

/-- Vector S2: accepted, bytes after index 8 ignored. -/
theorem test_rspPair_S2 :
    let t := after (exec .rspPair (loaded (zeros 16) [0x0d, 0x11, 0x12, 0x13, 0x14, 0x15, 0x16, 0x17, 0x18, 0x99, 0x98]))
    t.resp = .accepted ∧ t.rr = #v[0x11, 0x12, 0x13, 0x14, 0x15, 0x16, 0x17, 0x18] := by decide

/-- Vectors S3, S4, S6, S7. -/
theorem test_rspPair_others :
    ([[0x0d, 0x11, 0x12, 0x13, 0x14, 0x15, 0x16, 0x17], [0x0e], [0x07, 0x11, 0x12, 0x13, 0x14, 0x15, 0x16, 0x17, 0x18],
      []].map fun d => (after (exec .rspPair (loaded (zeros 16) d))).resp) =
    [Resp.violation, .rejected, .violation, .violation] := by decide

/-- Vectors S9, S10, S11, S12. -/
theorem test_rspReconf :
    ([[0x07, 0x01, 0x02], [0x0e], [0x0d], []].map fun d => (after (exec .rspReconf (loaded (zeros 16) d))).resp) =
    [Resp.accepted, .rejected, .rejected, .violation] := by decide

/-- Row T12: `OP`, `CTRL` and `OVR` are kept, all else is zero. -/
theorem test_zeroize_T12 :
    after (exec .zeroize { credentials with op := 0x0F, ie := true, ovr := true, resp := .accepted, mem := [(0x180, 1), (0x2FF, 2)] }) =
      { State.reset with op := 0x0F, ie := true, ovr := true, done := true } := by decide

/-- Rows T2a to T2e: `STATUS` 0x16, `OP` reads back. -/
theorem test_reserved_T2 :
    ([0x00, 0x0D, 0x0E, 0x10, 0x20, 0x40, 0xFF].map fun op =>
      let t := after (step (State.reset.withStarted op))
      (t.readByte 0x004, t.readByte 0x000)) =
    [(0x16, 0x00), (0x16, 0x0D), (0x16, 0x0E), (0x16, 0x10), (0x16, 0x20), (0x16, 0x40), (0x16, 0xFF)] := by decide

/-! ## The window, the host, reset (95_test_vectors.md section 8) -/

/-- Row T4: the write while `BUSY` = 1 is dropped and `STATUS` reads 0x09. -/
theorem test_window_T4 :
    let s := (State.reset.withStarted 0x02).hostWrite 0x012 1 5
    s.1.dlen = 0 ∧ s.2 = .ok ∧ s.1.hostRead 0x004 4 = .data 4 0x00000009 := by decide

/-- Row T5: `OVR` is cleared by writing 1. -/
theorem test_window_T5 :
    ({ State.reset with done := true, ovr := true }.hostWrite 0x004 1 0x08).1.hostRead 0x004 4 = .data 4 0x00000002 := by
  decide

/-- Row T6: `IRQ` after completion with `IE` = 1, and after `DONE` is cleared. -/
theorem test_irq_T6 :
    let s := (State.reset.hostWrite 0x008 4 1).1
    let t := after (step (s.withStarted 0x02))
    (s.withStarted 0x02).irq = false ∧ t.irq = true ∧ (t.hostWrite 0x004 1 0x02).1.irq = false := by decide

/-- Rows T7 and T8. -/
theorem test_busError_T7_T8 :
    State.reset.hostRead 0x002 4 = .busError ∧ State.reset.hostWrite 0x006 4 0 = (State.reset, .busError) ∧
    State.reset.hostRead 0x100 2 = .busError := by decide

/-- Row T9. -/
theorem test_readOnly_T9 :
    State.reset.hostWrite 0x070 1 0x55 = (State.reset, .ok) ∧
    State.reset.hostWrite 0x200 4 0x11223344 = (State.reset, .ok) ∧
    State.reset.hostWrite 0x3F0 1 0x77 = (State.reset, .ok) ∧ State.reset.hostWrite 0x004 1 0x01 = (State.reset, .ok) := by
  decide

/-- Row T10: little-endian lanes. -/
theorem test_lanes_T10 :
    let s := (State.reset.hostWrite 0x020 4 0x03020100).1
    (s.key[0], s.key[1], s.key[2], s.key[3]) = (0x00, 0x01, 0x02, 0x03) ∧ s.hostRead 0x021 1 = .data 1 0x01 := by decide

/-- Row T11: a 32-bit write at 0x000 starts the command of bits 7:0. -/
theorem test_start_T11 :
    let s := ({ State.reset with pace := { pending := 0, upcoming := [3], started := 0 } }.hostWrite 0x000 4 0x00000504).1
    s.command = .pair ∧ s.hostRead 0x000 4 = .data 4 0x00000004 ∧ s.busy = true ∧ s.pace.pending = 3 := by decide

/-- R48: `WAIT` loops while bit 0 of the polled `STATUS` is 1 (the branch of `BIT1` is taken). -/
theorem test_wait_branch :
    let s := { State.reset.withStarted 0x02 with
      host := { script := waitIdle 0 [], line := 0, temps := [], answers := [] }
      pace := { pending := 9, upcoming := [], started := 1 } }
    (after (step (after (step s)))).host.line = 0 ∧ (after (step s)).host.temps = [(0, 0x00000001)] := by decide

/-- R112: a reset line abandons the running command; the host goes on. -/
theorem test_reset_line :
    let s := { credentials.withStarted 0x03 with
      host := { script := [.reset], line := 0, temps := [], answers := [] }
      pace := { pending := 9, upcoming := [], started := 1 } }
    let t := after (step s)
    t.busy = false ∧ t.key = zeros 16 ∧ t.name = zeros 16 ∧ t.host.line = 1 := by decide

/-- R72, R74 step 5: the last lines of the answer script are a branch past `EXEC KDF`. -/
theorem test_pairingAnswer_branch :
    (pairingAnswer [0x0E] 1 []).drop 6 = [.bit1 18 9 10, wr8 0x000 0x03, rd32 0x004 0, .bit1 0 0 8] := by decide

/-! ## A concrete input for every statement with hypotheses -/

/-- A state in which `MAC` runs, with one step to go, and the host is about to write `DLEN`. -/
def running : State :=
  { loaded countKey [1, 2, 3] with
    op := 0x05, busy := true, pace := { pending := 1, upcoming := [], started := 1 }
    host := { script := [wr8 0x000 0x05, wr8 0x012 0x00], line := 1, temps := [], answers := [.ok] } }

/-- The engine is to complete `MAC` in the next step. -/
def completing : State := { running with pace := { pending := 0, upcoming := [], started := 1 } }

theorem witness_DecodeOfEncodeIsTheCommand :
    (Instr.reserved10 0x10).wellFormed = true ∧ (Instr.reserved20 0x3F).wellFormed = true ∧
    (Instr.reserved40 0x7F).wellFormed = true ∧ (Instr.reserved80 0x80).wellFormed = true ∧
    Instr.encblk.wellFormed = true := by decide

theorem witness_StepRunsTheLatchedCommand :
    completing.engineTurn = true ∧ { completing with busy := false }.busy = false := by decide

/-- A running command with two environment steps to go, whose host resets the engine on its third line: the reset comes
after the completion. -/
def resetLater : State :=
  { running with
    pace := { pending := 2, upcoming := [], started := 1 }
    host := { script := [rd32 0x004 0, wr8 0x008 0x01, .reset], line := 0, temps := [], answers := [] } }

theorem resetLater_noResetFirst : resetLater.NoResetFirst := by
  intro n hn u hu
  have hn' : n = 0 ∨ n = 1 := by have : n < 2 := hn; omega
  rcases hn' with rfl | rfl
  · rw [run_zero] at hu; cases hu; decide
  · rw [run_succ 0 (step_host (by decide)), run_zero] at hu; cases hu; decide

theorem witness_StartedCommandCompletes :
    resetLater.busy = true ∧ resetLater.pace.pending = 2 ∧ Line.reset ∈ resetLater.host.script ∧
    resetLater.NoResetFirst := ⟨rfl, rfl, by decide, resetLater_noResetFirst⟩

theorem witness_RunningEngineKeepsItsRegisters :
    running.busy = true ∧ step running = .next (after (step running)) ∧ (after (step running)).busy = true := by
  refine ⟨rfl, ?_, by decide⟩
  rw [step_host (by decide)]; rfl

theorem witness_ResultIsOfTheOperandsAtTheStart :
    resetLater.busy = true ∧ 0 < resetLater.pace.pending ∧ resetLater.NoResetFirst :=
  ⟨rfl, by decide, resetLater_noResetFirst⟩

/-- The start state of both runs, but for the latency. -/
def aboutToStart (latency : Nat) : State :=
  { loaded countKey [1, 2, 3] with
    pace := { pending := 0, upcoming := [latency], started := 0 }
    host := { script := [wr8 0x000 0x05, wr8 0x012 0x00], line := 0, temps := [], answers := [] } }

theorem witness_WriteDuringACommandHasBothRuns :
    let s := aboutToStart 1
    let s' := aboutToStart 0
    (s.busy = false ∧ s.ovr = false ∧ s.host.script = [wr8 0x000 0x05, wr8 0x012 0x00] ∧ s.host.line = 0 ∧
      s.pace.upcoming = [1]) ∧
    (s'.busy = false ∧ s'.ovr = false ∧ s'.host.script = [wr8 0x000 0x05, wr8 0x012 0x00] ∧ s'.host.line = 0 ∧
      s'.pace.upcoming = [0]) := by decide

theorem witness_IdleEngineKeepsItsState :
    credentials.busy = false ∧ credentials.host.current = none := by decide

theorem witness_ResetAbandonsTheRunningCommand :
    let s := { running with host := { script := [.reset], line := 0, temps := [], answers := [] } }
    s.engineTurn = false ∧ s.host.current = some .reset ∧ s.busy = true := by decide

theorem witness_AccessWidthsAndAlignment :
    ((1023 : Nat) < 1024 ∧ (2 : Nat) ≠ 1 ∧ (2 : Nat) ≠ 4) ∧ ((1022 : Nat) < 1024 ∧ (4 : Nat) = 4 ∧ 1022 % 4 ≠ 0) ∧
    ((1023 : Nat) < 1024 ∧ (1 : Nat) = 1) ∧ ((1020 : Nat) < 1024 ∧ (4 : Nat) = 4 ∧ 1020 % 4 = 0) := by decide

/-- A host that waits for `MAC`, its latency not yet over. -/
def waiting : State :=
  { running with host := { script := waitIdle 0 [], line := 0, temps := [], answers := [] } }

theorem witness_PollingEndsWhenTheCommandCompletes :
    waiting.host.line = 0 ∧ waiting.host.script[0]? = some (rd32 0x004 0) ∧
    waiting.host.script[1]? = some (.bit1 0 0 0) ∧ waiting.busy = true := by decide

theorem witness_KeyExpansionFollowsTheRecurrence : (3 : Nat) < 4 ∧ (4 : Nat) ≤ 4 ∧ (43 : Nat) < 44 := by decide

theorem witness_BeyondTheWindowNothingIsReached : (1024 : Nat) ≤ 1024 := by decide

theorem witness_ReadsAreLittleEndianLanes : (1020 : Nat) < 1024 ∧ 1020 % 4 = 0 ∧ (1023 : Nat) < 1024 := by decide

theorem witness_WriteStoresItsBytesAndNoOthers :
    credentials.busy = false ∧ (0x1FC : Nat) < 1024 ∧ (0x1FC : Nat) ≠ 0 ∧ 0x1FC % 4 = 0 ∧
    0x1FC + 3 = Reg.din.offset + 255 ∧ 255 < Reg.din.size ∧ (0x1FB : Nat) < 0x1FC ∧ 0x1FC + 4 ≤ (0x200 : Nat) := by decide

/-- One witness for each kind of byte: reserved (0x3FF), read-only register (0x2FC to 0x2FF), bytes 1 to 3 of `STATUS`
(0x005, while a command runs). -/
theorem witness_ReadOnlyAndReservedBytesIgnoreWrites :
    (credentials.busy = false ∧ (0x3FF : Nat) < 1024 ∧ ReservedOffset 0x3FF) ∧
    ((0x2FC : Nat) % 4 = 0 ∧ ∀ o, 0x2FC ≤ o → o < 0x2FC + 4 → IgnoresWrites o) ∧
    (running.busy = true ∧ 0x004 ≤ (0x005 : Nat) ∧ (0x005 : Nat) ≤ 0x00B ∧ IgnoresWrites 0x005) ∧
    ((0x01 : Word32).getLsbD 1 = false ∧ (0x01 : Word32).getLsbD 2 = false ∧ (0x01 : Word32).getLsbD 3 = false) := by
  refine ⟨⟨rfl, by decide, fun r k hk => ?_⟩, ⟨by decide, fun o h1 h2 => ?_⟩, ⟨rfl, by decide, by decide, ?_⟩,
    by decide, by decide, by decide⟩
  · cases r <;> simp only [Reg.offset, Reg.size] at * <;> omega
  · exact .inr ⟨.out, o - 0x200, by simp only [Reg.offset]; omega, by simp only [Reg.size]; omega, .inl (by decide)⟩
  · exact .inr ⟨.status, 1, rfl, by decide, .inr (by decide)⟩

theorem witness_WriteWhileBusyIsDropped :
    running.busy = true ∧ ((0x003 : Nat) < 1024 ∧ (0x003 : Nat) < 0x004) ∧
    ((0x00C : Nat) < 1024 ∧ 0x00B < (0x00C : Nat) ∧ 0x00C % 4 = 0) ∧
    (0x004 ≤ (0x008 : Nat) ∧ (0x008 : Nat) ≤ 0x00B ∧ 0x008 % 4 = 0) := by decide

theorem witness_CommandWriteStartsACommand : credentials.busy = false ∧ ((4 : Nat) = 1 ∨ (4 : Nat) = 4) := by decide

theorem witness_StatusAndControlWrites : ((1 : Nat) = 1 ∨ (1 : Nat) = 4) := by decide

theorem witness_InterruptFollowsDoneAndEnable :
    exec .keymat credentials = .next (after (exec .keymat credentials)) ∧ credentials.busy = false ∧
    (0x02 : Word32).getLsbD 1 = true := ⟨rfl, rfl, by decide⟩

theorem witness_EncblkEncryptsTheBlock :
    (loaded countKey blockE1).dlen.toNat = 16 ∧ (loaded countKey []).dlen.toNat ≠ 16 := by decide

theorem witness_CmdpktAssemblesThePacket :
    { lightOn with dlen := 10 }.dlen.toNat ≤ 10 ∧ 10 < { lightOn with dlen := 11 }.dlen.toNat := by decide

theorem witness_ReconfPacketsCarryTheNewValue :
    (Instr.reconfLtk = .reconfName ∧ (0x06 : Byte) = 0x04) ∨ (Instr.reconfLtk = .reconfPass ∧ (0x06 : Byte) = 0x05) ∨
    (Instr.reconfLtk = .reconfLtk ∧ (0x06 : Byte) = 0x06) := by decide

/-- One witness for each clause: an accepted response of 9 bytes, a rejection of 1 byte, an empty one. -/
theorem witness_RspPairClassifiesTheResponse :
    let a := loaded countKey [0x0D, 1, 2, 3, 4, 5, 6, 7, 8]
    let r := loaded countKey [0x0E]
    let v := loaded countKey [0x0D, 1, 2, 3, 4, 5, 6, 7]
    (9 ≤ a.dlen.toNat ∧ a.dinByte 0 = 0x0D) ∧ (1 ≤ r.dlen.toNat ∧ r.dinByte 0 = 0x0E) ∧
    (¬ (9 ≤ v.dlen.toNat ∧ v.dinByte 0 = 0x0D) ∧ ¬ (1 ≤ v.dlen.toNat ∧ v.dinByte 0 = 0x0E)) := by decide

theorem witness_RspReconfClassifiesTheResponse :
    (loaded countKey []).dlen.toNat = 0 ∧
    ((loaded countKey [7]).dlen.toNat ≠ 0 ∧ (loaded countKey [7]).dinByte 0 = 0x07) ∧
    ((loaded countKey [6]).dlen.toNat ≠ 0 ∧ (loaded countKey [6]).dinByte 0 ≠ 0x07) := by decide

theorem witness_ReservedValuesFailWithBadcmd :
    Instr.reserved80 0xFF = .reserved00 ∨ Instr.reserved80 0xFF = .reserved0D ∨ Instr.reserved80 0xFF = .reserved0E ∨
    Instr.reserved80 0xFF = .reserved10 0xFF ∨ Instr.reserved80 0xFF = .reserved20 0xFF ∨
    Instr.reserved80 0xFF = .reserved40 0xFF ∨ Instr.reserved80 0xFF = .reserved80 0xFF := by decide

theorem witness_FailingCommandWritesOnlyStatus :
    exec .reserved00 credentials = .next (after (exec .reserved00 credentials)) ∧
    (after (exec .reserved00 credentials)).err = true := ⟨rfl, rfl⟩

theorem witness_ErrorCodesHaveTheSpecsCauses :
    exec .encblk (loaded countKey []) = .next (after (exec .encblk (loaded countKey []))) ∧
    (after (exec .encblk (loaded countKey []))).ecode = .len := by
  constructor
  · rfl
  · decide

theorem witness_CommandsWriteOnlyTheirRegisters :
    exec .zeroize credentials = .next (after (exec .zeroize credentials)) := rfl

/-- Two states that agree on what `KEYMAT` reads and differ elsewhere: a masked byte of `NAME`, and `KEY`. -/
theorem witness_CommandsReadOnlyTheirOperands :
    let s := credentials
    let s' := { credentials with name := credentials.name.set 15 0xFF, key := countKey }
    (∀ r k, Instr.keymat.readsByte s.nlen.toNat s.wlen.toNat s.dlen.toNat r k = true → s.regByte r k = s'.regByte r k) ∧
    s ≠ s' ∧ exec .keymat s = .next (after (exec .keymat s)) ∧ exec .keymat s' = .next (after (exec .keymat s')) := by
  refine ⟨fun r k h => ?_, by decide, rfl, rfl⟩
  cases r
  case name =>
    have hk : k < 8 := by simpa [Instr.readsByte, credentials] using h
    simp only [State.regByte]
    exact congrArg (·.getD 0) (Vector.getElem?_set_ne (xs := credentials.name) (by decide) (show 15 ≠ k by omega)).symm
  case key => simp [Instr.readsByte] at h
  all_goals rfl

theorem witness_ZeroizeForgetsEverySecret :
    let s' := { credentials with key := countKey }
    credentials.op = s'.op ∧ credentials.ovr = s'.ovr ∧ credentials.ie = s'.ie ∧
    exec .zeroize credentials = .next (after (exec .zeroize credentials)) ∧
    exec .zeroize s' = .next (after (exec .zeroize s')) := ⟨rfl, rfl, rfl, rfl, rfl⟩

theorem witness_EveryStepKeepsTheMachineInvariant :
    running.Inv ∧ step running = .next (after (step running)) := by
  refine ⟨⟨by decide, by decide, by decide, ?_⟩, witness_RunningEngineKeepsItsRegisters.2.1⟩
  intro i _ _
  unfold State.outByte
  apply Memory.read_eq_unlisted
  intro c hc
  have : c.1 < 0x200 := (by decide : ∀ c ∈ running.mem, c.1 < 0x200) c hc
  simp only [Reg.offset]; omega

theorem witness_KdfSeparatesTheRandoms :
    let s' := { credentials with sr := #v[1, 2, 3, 4, 5, 6, 7, 9] }
    credentials.name = s'.name ∧ credentials.nlen = s'.nlen ∧ credentials.pass = s'.pass ∧
    credentials.wlen = s'.wlen ∧ (credentials.sr ≠ s'.sr ∨ credentials.rr ≠ s'.rr) ∧
    exec .kdf credentials = .next (after (exec .kdf credentials)) ∧ exec .kdf s' = .next (after (exec .kdf s')) :=
  ⟨rfl, rfl, rfl, rfl, by decide, rfl, rfl⟩

theorem witness_CredentialPaddingAndTruncation :
    (15 : Nat) < 16 ∧ 16 ≤ (16 : Byte).toNat ∧ 16 ≤ (255 : Byte).toNat ∧ (15 : Byte).toNat < 16 ∧
    (16 : Byte).toNat = (15 : Byte).toNat + 1 ∧ (zeros 16)[15] = 0x00 := by decide

theorem witness_ChecksumDetectsAByteChange :
    let p := List.replicate 255 (0x00 : Byte)
    p.length ≤ 255 ∧ 254 < p.length ∧ p.getD 254 0x00 ≠ 0x01 ∧ (0 : Nat) ≤ 255 ∧ (0 : Nat) ≠ 255 := by
  decide +kernel

theorem witness_CryptIsAnInvolution :
    (List.replicate 255 (0x00 : Byte)).length ≤ 255 ∧ (254 : Nat) < 255 := by decide +kernel

theorem witness_CtrTwiceGivesThePayloadBack :
    let s := loaded countKey [0xA0]
    let t := after (exec .ctr s)
    let c := { t with mem := t.mem.replace 0x100 256 ((List.range t.olen.toNat).map t.outByte) }
    exec .ctr s = .next t ∧ exec .ctr c = .next (after (exec .ctr c)) ∧ 0 < s.dlen.toNat := by
  exact ⟨rfl, rfl, by decide⟩

theorem witness_PacketsDifferOnlyAtTheChangedByte :
    let s := { lightOn with dlen := 10 }
    let s' := { lightOn with dlen := 10, mem := [(0x100, 1), (0x109, 9)] }
    s.key = s'.key ∧ s.addr = s'.addr ∧ s.seq = s'.seq ∧ s.dest = s'.dest ∧ s.opc = s'.opc ∧ s.dlen = s'.dlen ∧
    s.dlen.toNat ≤ 10 ∧ 9 < s.dlen.toNat ∧ (∀ j < s.dlen.toNat, j ≠ 9 → s.dinByte j = s'.dinByte j) ∧
    exec .cmdpkt s = .next (after (exec .cmdpkt s)) ∧ exec .cmdpkt s' = .next (after (exec .cmdpkt s')) :=
  ⟨rfl, rfl, rfl, rfl, rfl, rfl, by decide, by decide, by decide, rfl, rfl⟩

/-- Two engines whose windows touch. -/
def twoEngines : Platform := [{ base := 0x1000, engine := .reset }, { base := 0x1400, engine := credentials }]

theorem witness_EnginesDoNotInterfere :
    twoEngines[1]? = some { base := 0x1400, engine := credentials } ∧
    PlatformEngine.covers { base := 0x1400, engine := credentials } 0x13FF = false ∧ (0 : Nat) ≠ 1 ∧
    ((1023 : Nat) < 1024 ∧ ∀ d ∈ twoEngines.take 1, 0x1400 + 0 < d.base ∨ d.base + 1024 ≤ 0x1400 + 0) ∧
    (twoEngines.take 1)[0]?.map (·.engine.busy) = some false ∧ running.busy = true :=
  ⟨rfl, rfl, by decide, by decide, rfl, rfl⟩

theorem witness_AccessOutsideEveryWindowReachesNoEngine :
    ∀ e ∈ twoEngines, 0x1800 < e.base ∨ e.base + 1024 ≤ 0x1800 := by decide

theorem witness_ErevIsAesWithReversedBytes : 1 ≤ (1 : Nat) ∧ (9 : Nat) ≤ 9 := by decide

theorem witness_ChecksumChainsTheChunks :
    (15 : Nat) < 16 ∧ (255 : Nat) ≤ 255 ∧ (List.replicate 255 (0x00 : Byte)).length ≤ 255 ∧
    16 * 15 < (List.replicate 255 (0x00 : Byte)).length := by decide +kernel

end Sys2Proof.Tests
end

/-! PROOFS. Host accesses to the register window (20_memory.md R26 to R36): which are accepted, what a write leaves alone,
and what it does while a command runs. First what a window access does, one lemma per operation; then the statements of
the family. -/

namespace Sys2Proof.Machine

variable {s t : State} {a n o : Nat} {v : Word32}

/-! ## What an access does, by its kind -/

theorem accessOk_eq_false_iff : accessOk a n = false ↔ (n ≠ 1 ∧ n ≠ 4) ∨ (n = 4 ∧ a % 4 ≠ 0) := by
  rw [← Bool.not_eq_true, accessOk_iff]
  omega

/-- R36: a read the bus does not accept. -/
theorem State.hostRead_of_rejected (s : State) (ha : a < Config.windowSize) (h : accessOk a n = false) :
    s.hostRead a n = .busError := by
  simp [State.hostRead, Nat.not_le.mpr ha, h]

/-- R32: a read the bus accepts. -/
theorem State.hostRead_of_accepted (s : State) (ha : a < Config.windowSize) (h : accessOk a n = true) :
    s.hostRead a n = .data n (s.readLanes a n) := by
  simp [State.hostRead, Nat.not_le.mpr ha, h]

/-- R36: a write the bus does not accept changes no engine state. -/
theorem State.hostWrite_of_rejected (s : State) (v : Word32) (ha : a < Config.windowSize) (h : accessOk a n = false) :
    s.hostWrite a n v = (s, .busError) := by
  simp [State.hostWrite, Nat.not_le.mpr ha, h]

/-- R33, R35: a write the bus accepts is answered OK, performed or not. -/
theorem State.hostWrite_answer_of_accepted (s : State) (v : Word32) (ha : a < Config.windowSize)
    (h : accessOk a n = true) : (s.hostWrite a n v).2 = .ok := by
  rcases s.hostWrite_cases a n v with ⟨hw, -⟩ | ⟨-, hn, -⟩ | ⟨-, -, -, -, e⟩ | ⟨-, -, -, e⟩ | ⟨-, -, -, -, e⟩
  · omega
  · simp [h] at hn
  all_goals rw [e]

/-- R35: a write that is accepted while a command runs, outside `STATUS` and `CTRL`, only sets `OVR`. -/
theorem State.hostWrite_of_dropped (v : Word32) (ha : a < Config.windowSize) (h : accessOk a n = true)
    (hb : s.busy = true) (hr : a < 0x004 ∨ 0x00B < a) : s.hostWrite a n v = ({ s with ovr := true }, .ok) := by
  rcases s.hostWrite_cases a n v with ⟨hw, -⟩ | ⟨-, hn, -⟩ | ⟨-, -, -, -, e⟩ | ⟨-, -, hi, -⟩ | ⟨-, -, -, hd, -⟩
  · omega
  · simp [h] at hn
  · exact e
  · simp [hb] at hi
  · have := hd hb
    omega

/-- R33: a write that is accepted, not dropped, and does not start a command stores its lanes and does no more. -/
theorem State.hostWrite_of_performed (v : Word32) (ha : a < Config.windowSize) (h : accessOk a n = true) (h0 : a ≠ 0)
    (hb : s.busy = false ∨ (0x004 ≤ a ∧ a ≤ 0x00B)) : s.hostWrite a n v = (s.writeLanes a v n, .ok) := by
  rcases s.hostWrite_cases a n v with ⟨hw, -⟩ | ⟨-, hn, -⟩ | ⟨-, -, hb', hr, -⟩ | ⟨hz, -⟩ | ⟨-, -, -, -, e⟩
  · omega
  · simp [h] at hn
  · rcases hb with hb | hb
    · simp [hb] at hb'
    · exact absurd hb hr
  · exact absurd hz h0
  · exact e

/-! ## Reserved and read-only bytes (R34) -/

/-- R27: the register map has no entry at a reserved offset. -/
theorem ReservedOffset.at?_eq_none (h : ReservedOffset o) : Reg.at? o = none := by
  cases hat : Reg.at? o with
  | none => rfl
  | some p =>
    obtain ⟨ho, hk⟩ := Reg.at?_some hat
    exact absurd ho (h p.1 p.2 hk)

/-- R34: where the offsets that ignore writes lie, register by register. -/
theorem IgnoresWrites.cases (h : IgnoresWrites o) :
    ReservedOffset o ∨ ∃ (r : Reg) (k : Nat), o = r.offset + k ∧ k < r.size ∧
      (r = .olen ∨ r = .mac ∨ r = .out ∨ (r = .status ∧ k ≠ 0) ∨ (r = .ctrl ∧ k ≠ 0)) := by
  simpa [IgnoresWrites, or_assoc, or_and_right] using h

/-- R9: `OP`, at offset 0x000, takes writes. -/
theorem not_ignoresWrites_zero : ¬ IgnoresWrites 0x000 := by
  have hcmd : Reg.at? 0x000 = some (.cmd, 0) := Reg.at?_offset .cmd (i := 0) (by decide)
  rintro (h | ⟨r, k, ho, hk, hr⟩)
  · exact h .cmd 0 (by decide) rfl
  · rw [ho, Reg.at?_offset r hk] at hcmd
    obtain rfl : r = .cmd := (Prod.mk.inj (Option.some.inj hcmd)).1
    simp at hr

/-- R33: writing at a register's byte. -/
theorem State.writeByte_offset (s : State) (r : Reg) {k : Nat} (hk : k < r.size) (b : Byte) :
    s.writeByte (r.offset + k) b = s.writeReg r k b := by
  simp [State.writeByte, Reg.at?_offset r hk]

/-- R34: the byte store at a reserved or read-only byte does nothing at all. -/
theorem State.writeByte_of_ignoresWrites (s : State) (h : IgnoresWrites o) (b : Byte) : s.writeByte o b = s := by
  rcases h.cases with h | ⟨r, k, rfl, hk, hr⟩
  · simp [State.writeByte, h.at?_eq_none]
  · rw [State.writeByte_offset s r hk]
    rcases hr with rfl | rfl | rfl | ⟨rfl, hk0⟩ | ⟨rfl, hk0⟩
    · rfl
    · rfl
    · rfl
    · exact if_neg hk0
    · exact if_neg hk0

/-- R34: a write whose bytes after the first are reserved or read-only is the store of its first byte. -/
theorem State.writeLanes_eq_writeByte (s : State) (v : Word32) :
    ∀ n, (∀ o, a < o → o ≤ a + n → IgnoresWrites o) → s.writeLanes a v (n + 1) = s.writeByte a (v.extractLsb' 0 8)
  | 0, _ => rfl
  | n + 1, h => by
    have ih := s.writeLanes_eq_writeByte v n fun o h1 h2 => h o h1 (by omega)
    have hlast : IgnoresWrites (a + (n + 1)) := h _ (by omega) le_rfl
    rw [State.writeLanes, State.writeByte_of_ignoresWrites _ hlast, ih]

/-- R34: a write that covers only reserved and read-only bytes stores nothing. -/
theorem State.writeLanes_of_ignoresWrites (s : State) (v : Word32) (h : ∀ o, a ≤ o → o < a + n → IgnoresWrites o) :
    s.writeLanes a v n = s := by
  cases n with
  | zero => rfl
  | succ n =>
    rw [s.writeLanes_eq_writeByte v n fun o h1 h2 => h o (by omega) (by omega)]
    exact s.writeByte_of_ignoresWrites (h a le_rfl (by omega)) _

/-! ## What no host write changes -/

/-- The two states have the same values in all that the bytes a host cannot write show: `OLEN`, `MAC`, `OUT` and the
field `RESP` of `STATUS`. -/
structure State.SameUnwritable (s t : State) : Prop where
  resp : t.resp = s.resp
  olen : t.olen = s.olen
  mac  : t.mac = s.mac
  out  : ∀ i, t.outByte i = s.outByte i

/-- R34: every reserved and read-only byte reads the same in two such states. -/
theorem State.SameUnwritable.readByte_eq (h : s.SameUnwritable t) (ho : IgnoresWrites o) :
    t.readByte o = s.readByte o := by
  rcases ho.cases with ho | ⟨r, k, rfl, hk, hr⟩
  · rw [t.readByte_reserved ho.at?_eq_none, s.readByte_reserved ho.at?_eq_none]
  · rw [t.readByte_offset r hk, s.readByte_offset r hk]
    rcases hr with rfl | rfl | rfl | ⟨rfl, hk0⟩ | ⟨rfl, hk0⟩
    · simp [State.regByte, h.olen]
    · simp [State.regByte, h.mac]
    · simp [State.regByte, h.out]
    · simp [State.regByte, State.statusByte, hk0, h.resp]
    · simp [State.regByte, State.ctrlByte, hk0]

/-- R23: the byte store reaches no byte of `OUT`; what it stores in the memory lies in `DIN`. -/
theorem State.writeByte_outByte (s : State) (o : Nat) (b : Byte) (i : Nat) :
    (s.writeByte o b).outByte i = s.outByte i := by
  cases hat : Reg.at? o with
  | none => simp [State.writeByte, hat]
  | some p =>
    obtain ⟨r, k⟩ := p
    obtain ⟨rfl, hk⟩ := Reg.at?_some hat
    rw [State.writeByte_offset s r hk]
    cases r
    case din =>
      have hne : Reg.out.offset + i ≠ Reg.din.offset + k := by
        simp only [Reg.offset, Reg.size] at hk ⊢
        omega
      simp [State.writeReg, State.outByte, hne]
    case status | ctrl => simp only [State.writeReg]; split <;> rfl
    all_goals rfl

theorem State.writeLanes_outByte (s : State) (a : Nat) (v : Word32) (n i : Nat) :
    (s.writeLanes a v n).outByte i = s.outByte i := by
  induction n with
  | zero => rfl
  | succ n ih => rw [State.writeLanes, State.writeByte_outByte, ih]

theorem State.writeLanes_sameUnwritable (s : State) (a : Nat) (v : Word32) (n : Nat) :
    s.SameUnwritable (s.writeLanes a v n) := by
  obtain ⟨-, -, hresp, holen, hmac, -, -⟩ := s.writeLanes_keeps a v n
  exact ⟨hresp, holen, hmac, s.writeLanes_outByte a v n⟩

/-- R34, R35, R90: no host write at all, accepted, dropped or starting a command, changes what a reserved or read-only
byte shows. -/
theorem State.hostWrite_sameUnwritable (s : State) (a n : Nat) (v : Word32) :
    s.SameUnwritable (s.hostWrite a n v).1 := by
  rcases s.hostWrite_cases a n v with ⟨-, e⟩ | ⟨-, -, e⟩ | ⟨-, -, -, -, e⟩ | ⟨-, -, -, e⟩ | ⟨-, -, -, -, e⟩ <;> rw [e]
  · exact ⟨rfl, rfl, rfl, fun _ => rfl⟩
  · exact ⟨rfl, rfl, rfl, fun _ => rfl⟩
  · exact ⟨rfl, rfl, rfl, fun _ => rfl⟩
  · obtain ⟨hresp, holen, hmac, hout⟩ := s.writeLanes_sameUnwritable a v n
    exact ⟨hresp, holen, hmac, hout⟩
  · exact s.writeLanes_sameUnwritable a v n

/-! ## Writes to `STATUS` -/

/-- R34: bytes 1 to 3 of `STATUS` cannot be written. -/
theorem ignoresWrites_status (h1 : 0x004 < o) (h2 : o ≤ 0x007) : IgnoresWrites o := by
  refine .inr ⟨.status, o - 0x004, ?_, ?_, .inr ⟨by decide, by omega⟩⟩
  · simp only [Reg.offset]; omega
  · simp only [Reg.size]; omega

/-- R10, R33: a write to `STATUS` of either width, whatever `BUSY` is, is the clearing write of its byte 0. -/
theorem State.hostWrite_status (s : State) (v : Word32) (hn : n = 1 ∨ n = 4) :
    s.hostWrite 0x004 n v = (s.clearStatus (v.extractLsb' 0 8), .ok) := by
  have hok : accessOk 0x004 n = true := (accessOk_iff _ _).mpr (by omega)
  have hlanes : s.writeLanes 0x004 v n = s.clearStatus (v.extractLsb' 0 8) := by
    obtain ⟨m, rfl⟩ : ∃ m, n = m + 1 := ⟨n - 1, by omega⟩
    rw [s.writeLanes_eq_writeByte v m fun o h1 h2 => ignoresWrites_status h1 (by omega)]
    exact s.writeByte_offset .status (k := 0) (by decide) _
  rw [State.hostWrite_of_performed v (by decide) hok (by decide) (.inr (by decide)), hlanes]

/-- R10: with 0 in the clearing bits a write to `STATUS` clears nothing. -/
theorem State.clearStatus_of_bits_zero (s : State) {b : Byte} (h1 : b.getLsbD 1 = false) (h2 : b.getLsbD 2 = false)
    (h3 : b.getLsbD 3 = false) : s.clearStatus b = s := by
  simp only [State.clearStatus, h1, h2, h3, Bool.not_false, Bool.and_true]

/-! ## The byte store does not look at `BUSY` -/

/-- Writing `BUSY` the value it has changes nothing. -/
theorem State.withBusy_self {c : Bool} (h : s.busy = c) : { s with busy := c } = s := by
  subst h
  rfl

theorem State.writeByte_withBusy (s : State) (c : Bool) (o : Nat) (b : Byte) :
    { s with busy := c }.writeByte o b = { s.writeByte o b with busy := c } := by
  cases hat : Reg.at? o with
  | none => simp [State.writeByte, hat]
  | some p =>
    obtain ⟨r, k⟩ := p
    simp only [State.writeByte, hat]
    cases r
    case status | ctrl => simp only [State.writeReg]; split <;> rfl
    all_goals rfl

theorem State.writeLanes_withBusy (s : State) (c : Bool) (a : Nat) (v : Word32) (n : Nat) :
    { s with busy := c }.writeLanes a v n = { s.writeLanes a v n with busy := c } := by
  induction n with
  | zero => rfl
  | succ n ih => rw [State.writeLanes, ih, State.writeByte_withBusy, State.writeLanes]

/-! ## The statements of the family -/

/-- Settles O20: no write changes what a reserved or read-only byte shows (`hostWrite_sameUnwritable`), the byte store
there is the identity (`writeLanes_of_ignoresWrites`), and a write to `STATUS` is `clearStatus` of its byte 0. -/
theorem readOnlyAndReservedBytesIgnoreWrites : Obligations.ReadOnlyAndReservedBytesIgnoreWrites := by
  unfold Obligations.ReadOnlyAndReservedBytesIgnoreWrites
  refine ⟨fun s a n v hb ha hn => ?_, fun s n v hn => ?_, fun s o ho => s.readByte_reserved ho.at?_eq_none⟩
  · have hok := (accessOk_iff a n).mpr hn
    refine ⟨s.hostWrite_answer_of_accepted v ha hok,
      fun o _ _ ho => (s.hostWrite_sameUnwritable a n v).readByte_eq ho, fun hall => ?_⟩
    have h0 : a ≠ 0 := by
      rintro rfl
      exact not_ignoresWrites_zero (hall 0 le_rfl (by omega))
    rw [State.hostWrite_of_performed v ha hok h0 hb, s.writeLanes_of_ignoresWrites v hall]
  · rw [s.hostWrite_status v hn]
    refine ⟨rfl, rfl, rfl, fun h1 h2 h3 => ?_⟩
    rw [s.clearStatus_of_bits_zero (by simpa using h1) (by simpa using h2) (by simpa using h3)]

/-- Settles O14: `accessOk` is true of exactly the widths and alignments of R28 and R29. -/
theorem accessWidthsAndAlignment : Obligations.AccessWidthsAndAlignment := by
  unfold Obligations.AccessWidthsAndAlignment
  refine ⟨fun s a n v ha h => ?_, fun s a n v ha h => ?_⟩
  · have hbad := accessOk_eq_false_iff.mpr h
    exact ⟨s.hostRead_of_rejected ha hbad, s.hostWrite_of_rejected v ha hbad⟩
  · have hok := (accessOk_iff a n).mpr h
    exact ⟨⟨_, s.hostRead_of_accepted ha hok⟩, s.hostWrite_answer_of_accepted v ha hok⟩

/-- Settles O22: outside `STATUS` and `CTRL` the write is dropped; inside, both states perform the same byte stores,
which do not look at `BUSY` (`writeLanes_withBusy`). -/
theorem writeWhileBusyIsDropped : Obligations.WriteWhileBusyIsDropped := by
  unfold Obligations.WriteWhileBusyIsDropped
  refine ⟨fun s a n v hb ha hr hn => State.hostWrite_of_dropped v ha ((accessOk_iff a n).mpr hn) hb hr,
    fun s a n v hb h1 h2 hn => ?_⟩
  have ha : a < Config.windowSize := by simp only [Config.windowSize]; omega
  have hperf (u : State) : u.hostWrite a n v = (u.writeLanes a v n, .ok) :=
    State.hostWrite_of_performed v ha ((accessOk_iff a n).mpr hn) (by omega) (.inr ⟨h1, h2⟩)
  have hbusy : (s.writeLanes a v n).busy = true := (s.writeLanes_keeps a v n).1.trans hb
  rw [hperf, hperf, s.writeLanes_withBusy false]
  exact congrArg (·, BusAnswer.ok) (State.withBusy_self hbusy).symm

end Sys2Proof.Machine

/-! PROOFS. The command encoding (30_encoding.md R42, R44): which bytes a row of high mask bits holds, and the opcode map. -/

namespace Sys2Proof

/-- A byte under a mask of high bits is the byte with its low bits cleared. -/
theorem toNat_and_highMask (op : Byte) (k : Nat) :
    (op &&& BitVec.allOnes 8 <<< k).toNat = op.toNat / 2 ^ k * 2 ^ k := by
  have hlt : op.toNat / 2 ^ k * 2 ^ k < 2 ^ 8 := (Nat.div_mul_le_self _ _).trans_lt op.isLt
  rw [← BitVec.shiftLeft_ushiftRight, BitVec.toNat_shiftLeft, BitVec.toNat_ushiftRight, Nat.shiftRight_eq_div_pow,
    Nat.shiftLeft_eq, Nat.mod_eq_of_lt hlt]

/-- R42: a row whose mask is the bits from `k` up and whose match is bit `k` alone holds the bytes from `2 ^ k` to
`2 ^ (k + 1) - 1`. -/
theorem and_highMask_eq_iff (op : Byte) {k : Nat} (hk : k < 8) :
    op &&& BitVec.allOnes 8 <<< k = BitVec.twoPow 8 k ↔ op.toNat / 2 ^ k = 1 := by
  rw [← BitVec.toNat_inj, toNat_and_highMask, BitVec.toNat_twoPow_of_lt hk,
    Nat.mul_eq_right (Nat.two_pow_pos k).ne']

/-- R44: from 0x10 on the decoder looks only at where the leading 1 bit stands. -/
theorem decodeOp_of_sixteen_le {op : Byte} (h : 0x10 ≤ op.toNat) :
    decodeOp op =
      if op.toNat / 2 ^ 4 = 1 then .reserved10 op
      else if op.toNat / 2 ^ 5 = 1 then .reserved20 op
      else if op.toNat / 2 ^ 6 = 1 then .reserved40 op
      else .reserved80 op := by
  have hne (b : Byte) (hb : b.toNat < 0x10) : op ≠ b := by
    rintro rfl
    omega
  have h4 : op &&& 0xF0 = 0x10 ↔ op.toNat / 2 ^ 4 = 1 := and_highMask_eq_iff op (k := 4) (by decide)
  have h5 : op &&& 0xE0 = 0x20 ↔ op.toNat / 2 ^ 5 = 1 := and_highMask_eq_iff op (k := 5) (by decide)
  have h6 : op &&& 0xC0 = 0x40 ↔ op.toNat / 2 ^ 6 = 1 := and_highMask_eq_iff op (k := 6) (by decide)
  simp only [decodeOp, h4, h5, h6]
  iterate 16 rw [if_neg (hne _ (by decide))]

/-- Settles O1: the sixteen low rows by evaluation, the four reserved ranges by `decodeOp_of_sixteen_le`. -/
theorem opcodeMapIsTheSpecs : Obligations.OpcodeMapIsTheSpecs := by
  unfold Obligations.OpcodeMapIsTheSpecs
  refine ⟨rfl, rfl, rfl, rfl, rfl, rfl, rfl, rfl, rfl, rfl, rfl, rfl, rfl, rfl, rfl, rfl,
    fun op => ⟨fun hlo hhi => ?row10, fun hlo hhi => ?row20, fun hlo hhi => ?row40, fun hlo => ?row80⟩⟩ <;>
    rw [decodeOp_of_sixteen_le (by omega)]
  case row10 => rw [if_pos (by omega)]
  case row20 => rw [if_neg (by omega), if_pos (by omega)]
  case row40 => rw [if_neg (by omega), if_neg (by omega), if_pos (by omega)]
  case row80 => rw [if_neg (by omega), if_neg (by omega), if_neg (by omega)]

end Sys2Proof

/-! PROOFS. The block cipher (40_block_cipher.md R49 to R61): the field GF(2^8) and its inverse, the steps and the
rounds of AES-128, the key schedule, and `ENCBLK`; then the statements of the family. -/

namespace Sys2Proof.Machine

/-! ## The ring laws of `gmul` (R49)

`gmul a b` is the XOR of the `xtime^i(a)` over the bits of `b`; with that form it is additive in `b` and commutes with
`xtime`, and so it is associative. Associativity is what makes a two-sided inverse unique. -/

/-- The XOR of `f 0`, ..., `f (n - 1)`. -/
def xorSum (f : Nat → Byte) : Nat → Byte
  | 0 => 0
  | n + 1 => xorSum f n ^^^ f n

theorem xorSum_congr {f g : Nat → Byte} {n : Nat} (h : ∀ i < n, f i = g i) : xorSum f n = xorSum g n := by
  induction n with
  | zero => rfl
  | succ n ih => rw [xorSum, xorSum, ih fun i hi => h i (by omega), h n (by omega)]

/-- The first term taken out. -/
theorem xorSum_succ' (f : Nat → Byte) (n : Nat) : xorSum f (n + 1) = f 0 ^^^ xorSum (fun i => f (i + 1)) n := by
  induction n with
  | zero => simp [xorSum]
  | succ n ih => rw [xorSum, ih, xorSum, BitVec.xor_assoc]

theorem xorSum_xor (f g : Nat → Byte) (n : Nat) : xorSum (fun i => f i ^^^ g i) n = xorSum f n ^^^ xorSum g n := by
  induction n with
  | zero => simp [xorSum]
  | succ n ih => rw [xorSum, ih, xorSum, xorSum]; ac_rfl

/-- An additive map goes through the sum. -/
theorem map_xorSum {g : Byte → Byte} (h0 : g 0 = 0) (h : ∀ x y, g (x ^^^ y) = g x ^^^ g y) (f : Nat → Byte)
    (n : Nat) : g (xorSum f n) = xorSum (fun i => g (f i)) n := by
  induction n with
  | zero => exact h0
  | succ n ih => rw [xorSum, h, ih, xorSum]

theorem gmul_eq_xorSum (a b : Byte) :
    gmul a b = xorSum (fun i => if b.getLsbD i then xtimePow i a else 0) 8 := by
  have hfold (n : Nat) : (List.range n).foldl (fun acc i => if b.getLsbD i then acc ^^^ xtimePow i a else acc) 0 =
      xorSum (fun i => if b.getLsbD i then xtimePow i a else 0) n := by
    induction n with
    | zero => rfl
    | succ n ih =>
      rw [List.range_succ, List.foldl_append, ih, xorSum, List.foldl_cons, List.foldl_nil]
      split <;> simp
  exact hfold 8

/-- The term of a bit is additive in the bit. -/
theorem ite_xor_bit (p q : Bool) (a : Byte) :
    (if p ^^ q then a else 0) = (if p then a else 0) ^^^ (if q then a else 0) := by
  cases p <;> cases q <;> simp

theorem xtime_xor (x y : Byte) : xtime (x ^^^ y) = xtime x ^^^ xtime y := by
  simp only [xtime, BitVec.shiftLeft_xor_distrib, BitVec.getLsbD_xor, ite_xor_bit]
  ac_rfl

theorem gmul_xor (a b c : Byte) : gmul a (b ^^^ c) = gmul a b ^^^ gmul a c := by
  simp only [gmul_eq_xorSum, ← xorSum_xor, BitVec.getLsbD_xor, ite_xor_bit]

theorem gmul_zero (a : Byte) : gmul a 0 = 0 := by
  simp [gmul_eq_xorSum, xorSum]

theorem zero_gmul (b : Byte) : gmul 0 b = 0 := by
  simp [gmul_eq_xorSum, xorSum, xtimePow, xtime]

theorem gmul_one (a : Byte) : gmul a 1 = a := by
  simp [gmul_eq_xorSum, xorSum, xtimePow]

theorem one_gmul : ∀ b : Byte, gmul 1 b = b := by decide +kernel

/-- R49: `x^8 = x^4 + x^3 + x + 1` modulo 0x11B. -/
theorem xtimePow_eight : ∀ a : Byte, xtimePow 8 a = gmul a 0x1B := by decide +kernel

/-- R49: shifting the second factor, its bit 7 dropped, takes every term that is left through one more `xtime`. -/
theorem gmul_shiftLeft_one (a b : Byte) :
    gmul a (b <<< 1) = xorSum (fun i => if b.getLsbD i then xtimePow (i + 1) a else 0) 7 := by
  have hzero : (b <<< 1).getLsbD 0 = false := by simp
  have hsucc {i : Nat} (hi : i < 7) : (b <<< 1).getLsbD (i + 1) = b.getLsbD i := by
    simp [show i + 1 < 8 by omega, BitVec.getLsbD_eq_getElem (show i < 8 by omega)]
  rw [gmul_eq_xorSum, xorSum_succ', hzero, if_neg Bool.false_ne_true]
  exact BitVec.zero_xor.trans (xorSum_congr fun i hi => by rw [hsucc hi])

theorem gmul_xtime (a b : Byte) : gmul a (xtime b) = xtime (gmul a b) := by
  have hreduce : gmul a (if b.getLsbD 7 then 0x1B else 0x00) = if b.getLsbD 7 then xtimePow 8 a else 0 := by
    rw [xtimePow_eight]
    split
    · rfl
    · exact gmul_zero a
  calc gmul a (xtime b)
      = xorSum (fun i => if b.getLsbD i then xtimePow (i + 1) a else 0) 8 := by
        rw [xtime, gmul_xor, gmul_shiftLeft_one, hreduce]; rfl
    _ = xtime (gmul a b) := by
        rw [gmul_eq_xorSum, map_xorSum (by decide) xtime_xor]
        refine xorSum_congr fun i _ => ?_
        split <;> rfl

theorem gmul_xtimePow (a b : Byte) : ∀ i, gmul a (xtimePow i b) = xtimePow i (gmul a b)
  | 0 => rfl
  | i + 1 => by rw [xtimePow, gmul_xtime, gmul_xtimePow a b i, xtimePow]

theorem gmul_assoc (a b c : Byte) : gmul (gmul a b) c = gmul a (gmul b c) := by
  rw [gmul_eq_xorSum (gmul a b) c, gmul_eq_xorSum b c, map_xorSum (gmul_zero a) (gmul_xor a)]
  refine xorSum_congr fun i _ => ?_
  split
  · exact (gmul_xtimePow a b i).symm
  · exact (gmul_zero a).symm

/-! ## The inverse and the S-box (R49, R50) -/

/-- R49: the search of `ginv` finds the inverse, which is the only one. -/
theorem ginv_eq_of_gmul_eq_one {b c : Byte} (hl : gmul c b = 1) (hr : gmul b c = 1) : ginv b = c := by
  have hunique {d : Byte} (hd : gmul b d = 1) : d = c := by
    calc d = gmul (gmul c b) d := by rw [hl, one_gmul]
      _ = c := by rw [gmul_assoc, hd, gmul_one]
  rw [ginv]
  generalize hfind : List.find? _ _ = found
  cases found with
  | none =>
    have hmem : c ∈ (List.range 256).map (BitVec.ofNat 8) :=
      List.mem_map.mpr ⟨c.toNat, List.mem_range.mpr c.isLt, by simp⟩
    simpa [hr] using List.find?_eq_none.mp hfind c hmem
  | some d => exact hunique (by simpa using List.find?_some hfind)

theorem ginv_zero : ginv 0 = 0 := by
  have hnone (l : List Byte) : l.find? (fun c => gmul 0 c == 1) = none :=
    List.find?_eq_none.mpr fun c _ => by rw [zero_gmul]; decide
  rw [ginv, hnone, Option.getD_none]

/-- The inverse of the affine map of R50. -/
def affineInverse (z : Byte) : Byte := z.rotateLeft 1 ^^^ z.rotateLeft 3 ^^^ z.rotateLeft 6 ^^^ 0x05

theorem affine_affineInverse : ∀ z : Byte, affine (affineInverse z) = z := by decide +kernel

/-- R50: the table, entry by entry, holds the affine image of a two-sided inverse. -/
theorem gmul_affineInverse_sbox : ∀ b : Byte, b ≠ 0 →
    gmul (affineInverse (sbox b)) b = 1 ∧ gmul b (affineInverse (sbox b)) = 1 := by decide +kernel

theorem ginv_eq_affineInverse_sbox (b : Byte) : ginv b = affineInverse (sbox b) := by
  by_cases hb : b = 0
  · subst hb
    exact ginv_zero.trans (by decide)
  · obtain ⟨hl, hr⟩ := gmul_affineInverse_sbox b hb
    exact ginv_eq_of_gmul_eq_one hl hr

/-! ## The steps of a round (R51 to R55) -/

@[simp] theorem AesState.build_getElem (f : Fin 4 → Fin 4 → Byte) (r c : Nat) (hr : r < 4) (hc : c < 4) :
    (AesState.build f)[r][c] = f ⟨r, hr⟩ ⟨c, hc⟩ := by
  simp [AesState.build]

theorem subBytes_getElem (s : AesState) (r c : Fin 4) : (subBytes s)[r][c] = sbox s[r][c] := by
  simp [subBytes]

/-- R53: the index `(c + r) mod 4` is the sum in `Fin 4`. -/
theorem shiftRows_getElem (s : AesState) (r c : Fin 4) : (shiftRows s)[r][c] = s[r][c + r] := by
  simp [shiftRows, Fin.val_add]

theorem mixColumns_getElem (s : AesState) (r c : Fin 4) :
    (mixColumns s)[r][c] = (mixColumn s[0][c] s[1][c] s[2][c] s[3][c])[r] := by
  simp [mixColumns]

theorem addRoundKey_getElem (s : AesState) (w : List KeyWord) (j : Nat) (r c : Fin 4) :
    (addRoundKey s w j)[r][c] = s[r][c] ^^^ (w.getD (4 * j + c.val) (zeros 4))[r] := by
  simp [addRoundKey]

theorem AesState.load_getElem (p : Bytes 16) (r c : Fin 4) : (AesState.load p)[r][c] = p[r.val + 4 * c.val] := by
  simp [AesState.load]

theorem AesState.unload_getElem (s : AesState) (r c : Fin 4) : s.unload[r.val + 4 * c.val] = s[r][c] := by
  have hrow : (r.val + 4 * c.val) % 4 = r.val := by omega
  have hcol : (r.val + 4 * c.val) / 4 = c.val := by omega
  simp [AesState.unload, hrow, hcol]

/-! ## The rounds (R57, R58) -/

/-- R57: the AES state after round `j`, for `j` up to 9. -/
def stateAfterRound (w : List KeyWord) (s : AesState) (j : Nat) : AesState :=
  (List.range' 1 j).foldl (aesRound w) (addRoundKey s w 0)

theorem stateAfterRound_zero (w : List KeyWord) (s : AesState) : stateAfterRound w s 0 = addRoundKey s w 0 := rfl

theorem stateAfterRound_succ (w : List KeyWord) (s : AesState) (j : Nat) :
    stateAfterRound w s (j + 1) = aesRound w (stateAfterRound w s j) (j + 1) := by
  simp [stateAfterRound, List.range'_1_concat, Nat.add_comm]

theorem aes128_eq (k p : Bytes 16) :
    aes128 k p = (addRoundKey (shiftRows (subBytes (stateAfterRound (keyExpansion k) (.load p) 9)))
      (keyExpansion k) 10).unload := rfl

theorem eRev_getElem (k b : Bytes 16) (i : Nat) (hi : i < 16) :
    (eRev k b)[i] = (aes128 (rev k) (rev b))[15 - i] := by
  simp [eRev]

/-! ## The key schedule (R56) -/

/-- R56: the words `w[0..m+3]`, oldest first: the key's four and `m` more. -/
def scheduleWords (k : Bytes 16) (m : Nat) : List KeyWord :=
  ((List.range' 4 m).foldl expandStep [keyWord k 3, keyWord k 2, keyWord k 1, keyWord k 0]).reverse

theorem keyExpansion_eq_scheduleWords (k : Bytes 16) : keyExpansion k = scheduleWords k 40 := rfl

theorem expandStep_reverse (ws : List KeyWord) (i : Nat) (h : 4 ≤ ws.length) :
    (expandStep ws i).reverse = ws.reverse ++
      [xorBytes (ws.reverse.getD (ws.length - 4) (zeros 4))
        (scheduleWord i (ws.reverse.getD (ws.length - 1) (zeros 4)))] := by
  have h3 : ws.length - 1 - (ws.length - 4) = 3 := by omega
  rw [expandStep, List.reverse_cons, List.getD_reverse _ (by omega), List.getD_reverse _ (by omega), h3, Nat.sub_self]

theorem scheduleWords_length (k : Bytes 16) (m : Nat) : (scheduleWords k m).length = m + 4 := by
  induction m with
  | zero => rfl
  | succ m ih => simpa [scheduleWords, List.range'_1_concat, expandStep] using ih

/-- R56: the word that one more step adds. -/
theorem scheduleWords_succ (k : Bytes 16) (m : Nat) :
    scheduleWords k (m + 1) = scheduleWords k m ++
      [xorBytes ((scheduleWords k m).getD m (zeros 4))
        (scheduleWord (m + 4) ((scheduleWords k m).getD (m + 3) (zeros 4)))] := by
  have hlen := scheduleWords_length k m
  rw [scheduleWords, List.length_reverse] at hlen
  rw [scheduleWords, List.range'_1_concat, List.foldl_append, Nat.add_comm 4 m, List.foldl_cons, List.foldl_nil,
    expandStep_reverse _ _ (by omega), hlen]
  rfl

/-- R56: a word of the schedule stays as it is while later words are added. -/
theorem scheduleWords_getD_of_le (k : Bytes 16) {i m n : Nat} (hi : i < m + 4) (h : m ≤ n) :
    (scheduleWords k n).getD i (zeros 4) = (scheduleWords k m).getD i (zeros 4) := by
  induction n, h using Nat.le_induction with
  | base => rfl
  | succ n hn ih =>
    rw [scheduleWords_succ, List.getD_append _ _ _ _ (by rw [scheduleWords_length]; omega), ih]

theorem scheduleWords_getD_new (k : Bytes 16) (m : Nat) :
    (scheduleWords k (m + 1)).getD (m + 4) (zeros 4) =
      xorBytes ((scheduleWords k m).getD m (zeros 4))
        (scheduleWord (m + 4) ((scheduleWords k m).getD (m + 3) (zeros 4))) := by
  rw [scheduleWords_succ, List.getD_append_right _ _ _ _ (by rw [scheduleWords_length]), scheduleWords_length,
    Nat.sub_self]
  rfl

theorem keyExpansion_length (k : Bytes 16) : (keyExpansion k).length = 44 := scheduleWords_length k 40

/-- R56: the first four words are the key's. -/
theorem keyExpansion_getD_lt_four (k : Bytes 16) (i : Fin 4) :
    (keyExpansion k).getD i (zeros 4) = keyWord k i := by
  rw [keyExpansion_eq_scheduleWords, scheduleWords_getD_of_le k (m := 0) (by omega) (by omega)]
  fin_cases i <;> rfl

/-- R56: the recurrence. -/
theorem keyExpansion_getD_add_four (k : Bytes 16) {m : Nat} (hm : m < 40) :
    (keyExpansion k).getD (m + 4) (zeros 4) =
      xorBytes ((keyExpansion k).getD m (zeros 4))
        (scheduleWord (m + 4) ((keyExpansion k).getD (m + 3) (zeros 4))) := by
  have hold {i : Nat} (hi : i < m + 4) := scheduleWords_getD_of_le k hi hm.le
  rw [keyExpansion_eq_scheduleWords, scheduleWords_getD_of_le k (by omega) hm, scheduleWords_getD_new,
    hold (by omega), hold (by omega)]

/-- R56: `rc[j+1] = xtime^j(1)`. -/
theorem roundConstants_getD : ∀ j < 10, roundConstants.getD j 0 = xtimePow j 0x01 := by decide

theorem scheduleWord_eq {i : Nat} (hi : i < 44) (t : KeyWord) :
    scheduleWord i t =
      if i % 4 = 0 then #v[sbox t[1] ^^^ xtimePow (i / 4 - 1) 0x01, sbox t[2], sbox t[3], sbox t[0]] else t := by
  rw [scheduleWord, roundConstants_getD (i / 4 - 1) (by omega)]

/-! ## `ENCBLK` (R61), by its length -/

theorem execEncblk_of_dlen_eq {s : State} (h : s.dlen = 16) :
    exec .encblk s = .next (s.setOut (eRev s.key s.inputBlock).toList).succeed := if_pos h

theorem execEncblk_of_dlen_ne {s : State} (h : s.dlen ≠ 16) : exec .encblk s = .next (s.failWith .len) := if_neg h

/-! ## The statements of the family -/

/-- Settles O45: the schedule one step longer is the schedule with one word more, so a word once there stays
(`scheduleWords_getD_of_le`), and the word a step adds follows the recurrence. -/
theorem keyExpansionFollowsTheRecurrence : Obligations.KeyExpansionFollowsTheRecurrence := by
  unfold Obligations.KeyExpansionFollowsTheRecurrence
  refine fun k => ⟨keyExpansion_length k, fun i hi r hr => ?_, fun i h4 h44 t ht => ?_⟩
  · rw [keyExpansion_getD_lt_four k ⟨i, hi⟩]
    have hin : 4 * i + r < 16 := by omega
    simp [keyWord, hr, hin]
  · obtain ⟨m, rfl⟩ : ∃ m, i = m + 4 := ⟨i - 4, by omega⟩
    rw [ht, ← scheduleWord_eq h44]
    exact keyExpansion_getD_add_four k (by omega)

/-- Settles O56: the sequence of states is `stateAfterRound`, the fold of the rounds cut off after round `j`. -/
theorem erevIsAesWithReversedBytes : Obligations.ErevIsAesWithReversedBytes := by
  unfold Obligations.ErevIsAesWithReversedBytes
  refine ⟨AesState.load_getElem, AesState.unload_getElem, fun k p => ?_, fun k b i => eRev_getElem k b i i.isLt⟩
  refine ⟨stateAfterRound (keyExpansion k) (.load p), stateAfterRound_zero _ _, fun j h1 _ => ?_, aes128_eq k p⟩
  obtain ⟨m, rfl⟩ : ∃ m, j = m + 1 := ⟨j - 1, by omega⟩
  exact stateAfterRound_succ _ _ m

/-- Settles O25: `DLEN` chooses the arm; the frame is that of a result put in `OUT`, or of a failing command. -/
theorem encblkEncryptsTheBlock : Obligations.EncblkEncryptsTheBlock := by
  unfold Obligations.EncblkEncryptsTheBlock
  intro s
  have hlen : s.dlen.toNat = 16 ↔ s.dlen = 16 := BitVec.toNat_inj (y := (16 : Byte))
  refine ⟨fun h => ?_, fun h => ?_⟩
  · exact ⟨_, execEncblk_of_dlen_eq (hlen.mp h), State.succeed_succeeded _, s.setOut_outIs _ (by simp),
      s.setOut_keeps _ (s.keeps_refl _) (by simp) (by simp), rfl⟩
  · exact ⟨_, execEncblk_of_dlen_ne (mt hlen.mpr h), s.failWith_failed .len, s.failWith_keeps .len [], rfl⟩

/-- Settles O44: `ginv` undoes the affine map on the table's entries (`ginv_eq_affineInverse_sbox`). -/
theorem sboxTableIsAffineOfInverse : Obligations.SboxTableIsAffineOfInverse := by
  unfold Obligations.SboxTableIsAffineOfInverse
  intro b
  rw [ginv_eq_affineInverse_sbox, affine_affineInverse]

/-- Settles O46: each step builds its state from the byte equation of its rule (`AesState.build_getElem`). -/
theorem roundStepsActOnTheBytes : Obligations.RoundStepsActOnTheBytes := by
  unfold Obligations.RoundStepsActOnTheBytes
  intro s w j c
  exact ⟨fun r => subBytes_getElem s r c, fun r => shiftRows_getElem s r c, mixColumns_getElem s 0 c,
    mixColumns_getElem s 1 c, mixColumns_getElem s 2 c, mixColumns_getElem s 3 c,
    fun r => addRoundKey_getElem s w j r c⟩

end Sys2Proof.Machine

/-! PROOFS. The key derivation (41_key_derivation.md R62 to R65): the padded credentials, the key material, and the
commands `KEYMAT` and `KDF`. -/

namespace Sys2Proof.Machine

/-! ## Padding and key material (R62, R63), byte by byte -/

@[simp] theorem pad16_getElem (x : Bytes 16) (n : Byte) (i : Nat) (hi : i < 16) :
    (pad16 x n)[i] = if i < n.toNat then x[i] else 0x00 := by
  simp [pad16]

/-- R62: two lengths pad alike when they differ only on bytes that are zero anyway. -/
theorem pad16_eq_pad16 {x : Bytes 16} {n m : Byte}
    (h : ∀ (i : Nat) (hi : i < 16), (i < n.toNat ↔ i < m.toNat) ∨ x[i] = 0x00) : pad16 x n = pad16 x m := by
  ext1 i hi
  rw [pad16_getElem, pad16_getElem]
  rcases h i hi with hlen | hzero
  · simp only [hlen]
  · simp only [hzero, ite_self]

theorem State.keyMaterial_getElem (s : State) {i : Nat} (hi : i < 16) :
    s.keyMaterial[i] = (if i < s.nlen.toNat then s.regByte .name i else 0x00) ^^^
      (if i < s.wlen.toNat then s.regByte .pass i else 0x00) := by
  simp [State.keyMaterial, State.regByte, hi]

/-! ## The registers and the result buffer -/

/-- The frame of installing a key. -/
theorem State.withKey_keeps (s : State) (k : Bytes 16) {rs : List Reg} (h : Reg.key ∈ rs) :
    s.Keeps { s with key := k } rs := by
  refine ⟨fun r i _ hr => ?_, rfl, fun _ _ _ => rfl, rfl, rfl⟩
  cases r
  case key => exact absurd h hr
  all_goals rfl

/-- R94: a 16-byte result fits in `OUT`. -/
theorem State.setOut_outIs_block (s : State) (b : Bytes 16) : (s.setOut b.toList).succeed.OutIs b.toList :=
  s.setOut_outIs _ (by simp)

/-- R94: a 16-byte result in `OUT`, byte by byte, and the zeros past it. -/
theorem State.OutIs.block_bytes {t : State} {b : Bytes 16} (h : t.OutIs b.toList) :
    t.olen.toNat = 16 ∧ (∀ (i : Nat) (hi : i < 16), t.outByte i = b[i]) ∧
      ∀ i, 16 ≤ i → i < 256 → t.outByte i = 0x00 := by
  obtain ⟨hlen, hbyte⟩ := h
  refine ⟨by simpa using hlen, fun i hi => ?_, fun i h16 h256 => ?_⟩
  · rw [hbyte i (by simp only [Reg.size]; omega)]
    simp [List.getD_eq_getElem?_getD, hi]
  · rw [hbyte i h256]
    simp [List.getD_eq_getElem?_getD, Nat.not_lt.mpr h16]

/-! ## The commands (R64, R65) -/

theorem exec_keymat (s : State) : exec .keymat s = .next (s.setOut s.keyMaterial.toList).succeed := rfl

theorem exec_kdf (s : State) :
    exec .kdf s = .next ({ s with key := s.sessionKey }.setOut s.sessionKey.toList).succeed := rfl

/-! ## The statements of the family -/

/-- Settles O26: the result in `OUT` is the key material, whose bytes are `keyMaterial_getElem`'s. -/
theorem keymatGivesTheKeyMaterial : Obligations.KeymatGivesTheKeyMaterial := by
  unfold Obligations.KeymatGivesTheKeyMaterial
  intro s
  obtain ⟨holen, hbytes, hzeros⟩ := (s.setOut_outIs_block s.keyMaterial).block_bytes
  exact ⟨_, exec_keymat s, State.succeed_succeeded _, holen,
    fun i hi => (hbytes i hi).trans (s.keyMaterial_getElem hi), hzeros,
    s.setOut_keeps _ (s.keeps_refl _) (by simp) (by simp), by simp⟩

/-- Settles O27: the key is installed first (`withKey_keeps`), and the result put in `OUT` is the same block. -/
theorem kdfInstallsTheSessionKey : Obligations.KdfInstallsTheSessionKey := by
  unfold Obligations.KdfInstallsTheSessionKey
  intro s
  have hkeep : s.Keeps { s with key := s.sessionKey } [.key, .out, .olen] := s.withKey_keeps _ (by simp)
  exact ⟨_, exec_kdf s, State.succeed_succeeded _, rfl, State.setOut_outIs_block _ s.sessionKey,
    s.setOut_keeps _ hkeep (by simp) (by simp), by simp⟩

/-- Settles O49: lengths from 16 on agree on every index below 16; a length one longer differs only at the byte
counted in, which is zero. -/
theorem credentialPaddingAndTruncation : Obligations.CredentialPaddingAndTruncation := by
  unfold Obligations.CredentialPaddingAndTruncation
  refine ⟨pad16_getElem, fun x n m hn hm => ?_, fun x n m h hm hx => ?_⟩
  · exact pad16_eq_pad16 fun i hi => .inl (by omega)
  · refine pad16_eq_pad16 fun i hi => ?_
    by_cases hlast : i = n.toNat
    · subst hlast
      exact .inr hx
    · exact .inl (by omega)

end Sys2Proof.Machine

/-! PROOFS. Pairing and mesh reconfiguration (42_pairing.md R67 to R73): the 17-byte packets of `PAIR` and `RECONF_*`, and
the classification of a response by `RSP_PAIR` and `RSP_RECONF`. -/

namespace Sys2Proof.Machine

/-! ## The two kinds of ending

A packet command puts 17 bytes in `OUT`; a response command sets `RESP`, after writing at most `RR`. -/

/-- R67, R68: everything a command that puts a 17-byte packet in `OUT` leaves. -/
theorem State.setOut_packet (s : State) {r : List Byte} (h : r.length = 17) :
    (s.setOut r).succeed.Succeeded ∧ (s.setOut r).succeed.OutIs r ∧ (s.setOut r).succeed.olen.toNat = 17 ∧
      s.Keeps (s.setOut r).succeed [.out, .olen] ∧ (s.setOut r).succeed.resp = s.resp := by
  have hout : (s.setOut r).succeed.OutIs r := s.setOut_outIs r (by omega)
  have holen : (s.setOut r).succeed.olen.toNat = 17 := hout.left.trans h
  exact ⟨State.succeed_succeeded _, hout, holen, s.setOut_keeps r (s.keeps_refl _) (by simp) (by simp), by simp⟩

/-- R72, R73: `RESP` lies in `STATUS`, so a classification keeps what the state before it keeps. -/
theorem State.Keeps.classified {s u : State} {rs : List Reg} (h : s.Keeps u rs) (c : Resp) :
    s.Keeps { u with resp := c }.succeed rs := by
  obtain ⟨hregs, hframe⟩ := h
  refine ⟨fun q k hq hr => ?_, hframe⟩
  have hresp : { u with resp := c }.regByte q k = u.regByte q k := by
    cases q
    case status => exact absurd rfl hq
    all_goals rfl
  rw [State.succeed_regByte _ _ hq, hresp]
  exact hregs q k hq hr

/-- R72: the frame of capturing a response random. -/
theorem State.withRr_keeps (s : State) (x : Bytes 8) : s.Keeps { s with rr := x } [.rr] := by
  refine ⟨fun q k _ hr => ?_, rfl, fun _ _ _ => rfl, rfl, rfl⟩
  cases q
  case rr => exact absurd (List.mem_singleton_self _) hr
  all_goals rfl

/-! ## The packets (R67 to R71) -/

theorem exec_pair (s : State) : exec .pair s = .next (s.setOut ([0x0C] ++ s.sr.toList ++ s.pairTag)).succeed := rfl

theorem State.pairTag_length (s : State) : s.pairTag.length = 8 := by simp [State.pairTag]

/-- R69, R70, R71: the three commands are one computation for a packet opcode. -/
theorem exec_reconf {i : Instr} {p : Byte} (s : State)
    (h : (i = .reconfName ∧ p = 0x04) ∨ (i = .reconfPass ∧ p = 0x05) ∨ (i = .reconfLtk ∧ p = 0x06)) :
    exec i s = .next (s.setOut ([p] ++ (eRev s.key s.inputValue).toList)).succeed := by
  obtain ⟨rfl, rfl⟩ | ⟨rfl, rfl⟩ | ⟨rfl, rfl⟩ := h <;> rfl

/-- R68: `pad16(DIN, DLEN)`, byte by byte. -/
theorem State.inputValue_eq (s : State) :
    s.inputValue = Vector.ofFn fun j : Fin 16 => if j.val < s.dlen.toNat then s.dinByte j else 0x00 := by
  ext1 j hj
  simp [State.inputValue, State.inputBlock]

/-! ## The responses (R72, R73), by their class -/

theorem State.withResponseRandom_regByte (s : State) {i : Nat} (hi : i < 8) :
    { s with rr := s.responseRandom, resp := .accepted }.succeed.regByte .rr i = s.dinByte (1 + i) := by
  simp [State.regByte, State.responseRandom, hi]

theorem execRspPair_of_accepted {s : State} (h : 9 ≤ s.dlen.toNat ∧ s.dinByte 0 = 0x0D) :
    exec .rspPair s = .next { s with rr := s.responseRandom, resp := .accepted }.succeed := if_pos h

/-- R72: a rejection is no acceptance, since its first byte differs. -/
theorem execRspPair_of_rejected {s : State} (h : 1 ≤ s.dlen.toNat ∧ s.dinByte 0 = 0x0E) :
    exec .rspPair s = .next { s with resp := .rejected }.succeed := by
  have hacc : ¬ (9 ≤ s.dlen.toNat ∧ s.dinByte 0 = 0x0D) := by simp [h.right]
  exact (if_neg hacc).trans (if_pos h)

theorem execRspPair_of_violation {s : State} (hacc : ¬ (9 ≤ s.dlen.toNat ∧ s.dinByte 0 = 0x0D))
    (hrej : ¬ (1 ≤ s.dlen.toNat ∧ s.dinByte 0 = 0x0E)) :
    exec .rspPair s = .next { s with resp := .violation }.succeed := (if_neg hacc).trans (if_neg hrej)

/-- R73: the class of a reconfiguration response. -/
def State.reconfClass (s : State) : Resp :=
  if s.dlen.toNat = 0 then .violation else if s.dinByte 0 = 0x07 then .accepted else .rejected

theorem exec_rspReconf (s : State) : exec .rspReconf s = .next { s with resp := s.reconfClass }.succeed := by
  have hlen : s.dlen = 0 ↔ s.dlen.toNat = 0 := (BitVec.toNat_inj (y := (0 : Byte))).symm
  simp only [exec, execRspReconf, State.reconfClass, hlen]
  split
  · rfl
  · split <;> rfl

/-! ## The statements of the family -/

/-- Settles O28: the packet is `1 + 8 + 8` bytes, so it is the result of a packet command (`setOut_packet`). -/
theorem pairBuildsThePairingPacket : Obligations.PairBuildsThePairingPacket := by
  unfold Obligations.PairBuildsThePairingPacket
  intro s
  have hlength : ([0x0C] ++ s.sr.toList ++ s.pairTag).length = 17 := by simp [s.pairTag_length]
  exact ⟨_, exec_pair s, s.setOut_packet hlength⟩

/-- Settles O32: one computation serves the three commands (`exec_reconf`), and its packet is `1 + 16` bytes. -/
theorem reconfPacketsCarryTheNewValue : Obligations.ReconfPacketsCarryTheNewValue := by
  unfold Obligations.ReconfPacketsCarryTheNewValue
  intro s i p hip
  have hlength : ([p] ++ (eRev s.key s.inputValue).toList).length = 17 := by simp
  rw [← s.inputValue_eq]
  exact ⟨_, exec_reconf s hip, s.setOut_packet hlength⟩

/-- Settles O33: one case for each class of R72; the clauses of the other two classes contradict it. -/
theorem rspPairClassifiesTheResponse : Obligations.RspPairClassifiesTheResponse := by
  unfold Obligations.RspPairClassifiesTheResponse
  intro s
  by_cases hacc : 9 ≤ s.dlen.toNat ∧ s.dinByte 0 = 0x0D
  · have hrej : ¬ (1 ≤ s.dlen.toNat ∧ s.dinByte 0 = 0x0E) := by simp [hacc.right]
    exact ⟨_, execRspPair_of_accepted hacc, State.succeed_succeeded _, (s.withRr_keeps s.responseRandom).classified _,
      fun _ => ⟨rfl, fun _ hi => s.withResponseRandom_regByte hi⟩, fun h => absurd h hrej, fun h => absurd hacc h⟩
  · by_cases hrej : 1 ≤ s.dlen.toNat ∧ s.dinByte 0 = 0x0E
    · exact ⟨_, execRspPair_of_rejected hrej, State.succeed_succeeded _, (s.keeps_refl _).classified _,
        fun h => absurd h hacc, fun _ => ⟨rfl, rfl⟩, fun _ h => absurd hrej h⟩
    · exact ⟨_, execRspPair_of_violation hacc hrej, State.succeed_succeeded _, (s.keeps_refl _).classified _,
        fun h => absurd h hacc, fun h => absurd h hrej, fun _ _ => ⟨rfl, rfl⟩⟩

/-- Settles O34: the command only sets `RESP` to the response's class (`exec_rspReconf`). -/
theorem rspReconfClassifiesTheResponse : Obligations.RspReconfClassifiesTheResponse := by
  unfold Obligations.RspReconfClassifiesTheResponse
  intro s
  exact ⟨_, exec_rspReconf s, State.succeed_succeeded _, (s.keeps_refl _).classified _, fun h => if_pos h,
    fun h h7 => (if_neg h).trans (if_pos h7), fun h h7 => (if_neg h).trans (if_neg h7)⟩

end Sys2Proof.Machine

/-! PROOFS. The checksum and `MAC` (43_checksum.md R76 to R78). That a changed byte is noticed rests on `E_rev` losing
nothing for a fixed key (R60), so the cipher's steps are shown injective first; then the checksum, chunk by chunk. -/

namespace Sys2Proof.Machine

/-! ## `E_rev` is injective for every key (R60)

Each step of a round has an inverse on the bytes, so each step, each round and the cipher are injective. -/

/-- Two AES states with the same bytes are equal. -/
theorem AesState.ext_getElem {s t : AesState} (h : ∀ r c : Fin 4, s[r][c] = t[r][c]) : s = t := by
  ext1 r hr
  ext1 c hc
  exact h ⟨r, hr⟩ ⟨c, hc⟩

theorem AesState.load_injective : Function.Injective AesState.load := by
  intro p q h
  ext1 i hi
  have hbyte := congrArg (fun s : AesState => s[i % 4][i / 4]) h
  simpa [AesState.load, Nat.mod_add_div] using hbyte

theorem AesState.unload_injective : Function.Injective AesState.unload := by
  intro s t h
  refine AesState.ext_getElem fun r c => ?_
  rw [← AesState.unload_getElem, ← AesState.unload_getElem, h]

/-- R55: XOR with a round key is undone by the same XOR. -/
theorem addRoundKey_injective (w : List KeyWord) (j : Nat) : Function.Injective (addRoundKey · w j) := by
  intro s t h
  refine AesState.ext_getElem fun r c => ?_
  have hbyte : (addRoundKey s w j)[r][c] = (addRoundKey t w j)[r][c] := congrArg (fun u : AesState => u[r][c]) h
  rw [addRoundKey_getElem, addRoundKey_getElem] at hbyte
  exact (BitVec.xor_left_inj _).mp hbyte

/-- R53: the byte at `(r, c)` comes back from column `c - r`. -/
theorem getElem_eq_shiftRows (s : AesState) (r c : Fin 4) : s[r][c] = (shiftRows s)[r][c - r] := by
  simp only [shiftRows_getElem, sub_add_cancel]

theorem shiftRows_injective : Function.Injective shiftRows := by
  intro s t h
  refine AesState.ext_getElem fun r c => ?_
  rw [getElem_eq_shiftRows s, getElem_eq_shiftRows t, h]

/-- R50: the inverse of the S-box undoes the affine map and then takes the inverse in the field. -/
theorem ginv_affineInverse_sbox (b : Byte) : ginv (affineInverse (sbox b)) = b := by
  by_cases hb : b = 0
  · subst hb
    have hzero : affineInverse (sbox 0) = 0 := by decide
    rw [hzero, ginv_zero]
  · obtain ⟨hl, hr⟩ := gmul_affineInverse_sbox b hb
    exact ginv_eq_of_gmul_eq_one hr hl

theorem subBytes_injective : Function.Injective subBytes := by
  intro s t h
  refine AesState.ext_getElem fun r c => ?_
  rw [← ginv_affineInverse_sbox s[r][c], ← ginv_affineInverse_sbox t[r][c], ← subBytes_getElem, ← subBytes_getElem, h]

/-- R54: row 0 of the matrix; row `i` is row 0 applied to the column turned by `i`. -/
def mixRow (a b c d : Byte) : Byte := gmul 2 a ^^^ gmul 3 b ^^^ c ^^^ d

/-- Row 0 of the inverse of the matrix of R54. -/
def unmixRow (a b c d : Byte) : Byte := gmul 14 a ^^^ gmul 11 b ^^^ gmul 13 c ^^^ gmul 9 d

theorem mixColumn_eq (a b c d : Byte) :
    mixColumn a b c d = #v[mixRow a b c d, mixRow b c d a, mixRow c d a b, mixRow d a b c] := by
  unfold mixColumn mixRow
  ac_nf

/-- What the byte that a row starts from contributes to the product of the two matrices. -/
theorem unmix_mix_diag : ∀ a : Byte,
    gmul 14 (gmul 2 a) ^^^ gmul 11 a ^^^ gmul 13 a ^^^ gmul 9 (gmul 3 a) = a := by decide +kernel

/-- What each other byte of the column contributes. -/
theorem unmix_mix_off : ∀ a : Byte,
    gmul 14 (gmul 3 a) ^^^ gmul 11 (gmul 2 a) ^^^ gmul 13 a ^^^ gmul 9 a = 0 ∧
    gmul 14 a ^^^ gmul 11 (gmul 3 a) ^^^ gmul 13 (gmul 2 a) ^^^ gmul 9 a = 0 ∧
    gmul 14 a ^^^ gmul 11 a ^^^ gmul 13 (gmul 3 a) ^^^ gmul 9 (gmul 2 a) = 0 := by decide +kernel

theorem unmixRow_mixRow (a b c d : Byte) :
    unmixRow (mixRow a b c d) (mixRow b c d a) (mixRow c d a b) (mixRow d a b c) = a := by
  obtain ⟨hb, -, -⟩ := unmix_mix_off b
  obtain ⟨-, hc, -⟩ := unmix_mix_off c
  obtain ⟨-, -, hd⟩ := unmix_mix_off d
  calc unmixRow (mixRow a b c d) (mixRow b c d a) (mixRow c d a b) (mixRow d a b c)
      = (gmul 14 (gmul 2 a) ^^^ gmul 11 a ^^^ gmul 13 a ^^^ gmul 9 (gmul 3 a)) ^^^
        (gmul 14 (gmul 3 b) ^^^ gmul 11 (gmul 2 b) ^^^ gmul 13 b ^^^ gmul 9 b) ^^^
        (gmul 14 c ^^^ gmul 11 (gmul 3 c) ^^^ gmul 13 (gmul 2 c) ^^^ gmul 9 c) ^^^
        (gmul 14 d ^^^ gmul 11 d ^^^ gmul 13 (gmul 3 d) ^^^ gmul 9 (gmul 2 d)) := by
        simp only [unmixRow, mixRow, gmul_xor]; ac_rfl
    _ = a := by rw [unmix_mix_diag, hb, hc, hd]; simp

/-- R54: a mixed column tells every byte of the column it came from. -/
theorem mixColumn_inj {a b c d a' b' c' d' : Byte} (h : mixColumn a b c d = mixColumn a' b' c' d') :
    a = a' ∧ b = b' ∧ c = c' ∧ d = d' := by
  simp only [mixColumn_eq, Vector.mk.injEq, Array.mk.injEq, List.cons.injEq, and_true] at h
  obtain ⟨h0, h1, h2, h3⟩ := h
  refine ⟨?_, ?_, ?_, ?_⟩
  · rw [← unmixRow_mixRow a b c d, h0, h1, h2, h3, unmixRow_mixRow]
  · rw [← unmixRow_mixRow b c d a, h0, h1, h2, h3, unmixRow_mixRow]
  · rw [← unmixRow_mixRow c d a b, h0, h1, h2, h3, unmixRow_mixRow]
  · rw [← unmixRow_mixRow d a b c, h0, h1, h2, h3, unmixRow_mixRow]

theorem mixColumns_injective : Function.Injective mixColumns := by
  intro s t h
  have hcol (c : Fin 4) : mixColumn s[0][c] s[1][c] s[2][c] s[3][c] = mixColumn t[0][c] t[1][c] t[2][c] t[3][c] := by
    ext1 r hr
    have hs := mixColumns_getElem s ⟨r, hr⟩ c
    rw [h, mixColumns_getElem] at hs
    exact hs.symm
  refine AesState.ext_getElem fun r c => ?_
  obtain ⟨h0, h1, h2, h3⟩ := mixColumn_inj (hcol c)
  fin_cases r
  · exact h0
  · exact h1
  · exact h2
  · exact h3

theorem aesRound_injective (w : List KeyWord) (j : Nat) : Function.Injective (aesRound w · j) :=
  (addRoundKey_injective w j).comp (mixColumns_injective.comp (shiftRows_injective.comp subBytes_injective))

theorem stateAfterRound_injective (w : List KeyWord) (j : Nat) : Function.Injective (stateAfterRound w · j) := by
  induction j with
  | zero => exact addRoundKey_injective w 0
  | succ j ih =>
    simp only [stateAfterRound_succ]
    exact (aesRound_injective w (j + 1)).comp ih

/-- R57: with a fixed key AES-128 encrypts different blocks to different blocks. -/
theorem aes128_injective (k : Bytes 16) : Function.Injective (aes128 k) := by
  intro p q h
  rw [aes128_eq, aes128_eq] at h
  have hround10 := shiftRows_injective (addRoundKey_injective _ 10 (AesState.unload_injective h))
  exact AesState.load_injective (stateAfterRound_injective _ 9 (subBytes_injective hround10))

theorem rev_injective {n : Nat} : Function.Injective (rev : Bytes n → Bytes n) :=
  Function.LeftInverse.injective rev_rev

/-- R60: for every key `E_rev` is injective. -/
theorem eRev_injective (k : Bytes 16) : Function.Injective (eRev k) := by
  have hcomp : eRev k = rev ∘ aes128 (rev k) ∘ rev := by
    funext b
    exact eRev.eq_1 k b
  rw [hcomp]
  exact rev_injective.comp ((aes128_injective (rev k)).comp rev_injective)

/-! ## The checksum, chunk by chunk (R76) -/

/-- R76: `check` after the first `m` chunks of the payload. -/
def checkAfter (k : Bytes 16) (n : Bytes 8) (p : List Byte) (m : Nat) : Bytes 16 :=
  (List.range m).foldl (checksumStep k p) (eRev k (initialBlock n p.length))

theorem checkAfter_zero (k : Bytes 16) (n : Bytes 8) (p : List Byte) :
    checkAfter k n p 0 = eRev k (initialBlock n p.length) := rfl

theorem checkAfter_succ (k : Bytes 16) (n : Bytes 8) (p : List Byte) (m : Nat) :
    checkAfter k n p (m + 1) = eRev k (xorBytes (checkAfter k n p m) (chunk16 p m)) :=
  checksum_fold_succ k p _ m

theorem checksum_eq_checkAfter (k : Bytes 16) (n : Bytes 8) (p : List Byte) :
    checksum k n p = checkAfter k n p (chunks p.length) := rfl

section
variable {k : Bytes 16} {n : Bytes 8} {p q : List Byte}

/-- Payloads of one length whose first `m` chunks agree have the same `check` after them. -/
theorem checkAfter_congr (hlen : p.length = q.length) {m : Nat} (h : ∀ j < m, chunk16 p j = chunk16 q j) :
    checkAfter k n p m = checkAfter k n q m := by
  induction m with
  | zero => rw [checkAfter_zero, checkAfter_zero, hlen]
  | succ m ih => rw [checkAfter_succ, checkAfter_succ, ih fun j hj => h j (by omega), h m (by omega)]

/-- R77: a difference in one chunk alone enters `check` there and stays, since no later step loses it. -/
theorem checkAfter_ne_of_chunk_ne (hlen : p.length = q.length) {c m : Nat} (hc : chunk16 p c ≠ chunk16 q c)
    (h : ∀ j ≠ c, chunk16 p j = chunk16 q j) (hm : c + 1 ≤ m) : checkAfter k n p m ≠ checkAfter k n q m := by
  induction m, hm using Nat.le_induction with
  | base =>
    rw [checkAfter_succ, checkAfter_succ, checkAfter_congr hlen fun j hj => h j hj.ne]
    exact fun heq => hc (xorBytes_left_injective (eRev_injective k heq))
  | succ m hm ih =>
    rw [checkAfter_succ, checkAfter_succ, h m (by omega), xorBytes_comm _ (chunk16 q m), xorBytes_comm _ (chunk16 q m)]
    exact fun heq => ih (xorBytes_left_injective (eRev_injective k heq))

/-- R76: a byte written into a payload touches no other chunk than its own. -/
theorem chunk16_set_of_ne {i j : Nat} (b : Byte) (h : j ≠ i / 16) : chunk16 (p.set i b) j = chunk16 p j := by
  ext1 l hl
  have hne : i ≠ 16 * j + l := by omega
  simp [List.getD_eq_getElem?_getD, List.getElem?_set_ne hne]

/-- R76: byte `i` of a payload is byte `i mod 16` of chunk `i div 16`. -/
theorem chunk16_div_getElem (p : List Byte) (i : Nat) :
    (chunk16 p (i / 16))[i % 16]'(Nat.mod_lt i (by decide)) = p.getD i 0 := by
  rw [chunk16_getElem, Nat.div_add_mod]

theorem chunk16_set_ne {i : Nat} {b : Byte} (hi : i < p.length) (hb : p.getD i 0 ≠ b) :
    chunk16 (p.set i b) (i / 16) ≠ chunk16 p (i / 16) := by
  intro heq
  have hbyte := chunk16_div_getElem (p.set i b) i
  simp only [heq, chunk16_div_getElem] at hbyte
  exact hb (hbyte.trans (by simp [hi]))

end

theorem chunk16_append_zeros (p : List Byte) (m j : Nat) :
    chunk16 (p ++ List.replicate m 0x00) j = chunk16 p j := by
  ext1 i hi
  simp only [chunk16_getElem]
  rcases Nat.lt_or_ge (16 * j + i) p.length with hin | hout
  · exact List.getD_append _ _ _ _ hin
  · rw [List.getD_append_right _ _ _ _ hout, List.getD_eq_default _ _ hout, List.getD_eq_getElem?_getD]
    exact List.getElem?_getD_replicate_default_eq _ _ _

/-- R77: byte 8 of the initial block is the length. -/
theorem initialBlock_inj {n : Bytes 8} {l l' : Nat} (hl : l ≤ 255) (hl' : l' ≤ 255)
    (h : initialBlock n l = initialBlock n l') : l = l' := by
  have hbyte : BitVec.ofNat 8 l = BitVec.ofNat 8 l' := by
    have h8 := initialBlock_getElem n l 8 (by decide)
    rw [h, initialBlock_getElem] at h8
    exact h8.symm
  have hnat := congrArg BitVec.toNat hbyte
  rw [BitVec.toNat_ofNat, BitVec.toNat_ofNat] at hnat
  omega

/-- R76: the zero-padded chunk, with the padding written out. -/
theorem xorBytes_chunk16 (x : Bytes 16) (p : List Byte) (j : Nat) :
    xorBytes x (chunk16 p j) = Vector.ofFn fun i : Fin 16 =>
      x[i] ^^^ (if 16 * j + i.val < p.length then p.getD (16 * j + i.val) 0x00 else 0x00) := by
  ext1 i hi
  simp only [xorBytes_getElem, chunk16_getElem, Vector.getElem_ofFn]
  split
  · rfl
  · rename_i hout
    rw [List.getD_eq_default _ _ (Nat.not_lt.mp hout)]
    rfl

/-! ## `MAC` (R78) -/

theorem exec_mac (s : State) :
    exec .mac s =
      .next ({ s with mac := checksum s.key s.nonce s.input }.setOut (checksum s.key s.nonce s.input).toList).succeed :=
  rfl

/-- R46: the payload of `MAC`. -/
theorem State.input_eq_dinBytes (s : State) : s.input = s.dinBytes s.dlen.toNat := rfl

/-- R78: the frame of installing a checksum. -/
theorem State.withMac_keeps (s : State) (c : Bytes 16) {rs : List Reg} (h : Reg.mac ∈ rs) :
    s.Keeps { s with mac := c } rs := by
  refine ⟨fun r i _ hr => ?_, rfl, fun _ _ _ => rfl, rfl, rfl⟩
  cases r
  case mac => exact absurd h hr
  all_goals rfl

/-! ## The statements of the family -/

/-- Settles O50: the changed byte makes its own chunk differ and no other (`checkAfter_ne_of_chunk_ne`). -/
theorem checksumDetectsAByteChange : Obligations.ChecksumDetectsAByteChange := by
  unfold Obligations.ChecksumDetectsAByteChange
  refine ⟨fun k n p i b _ hi hb => ?_, chunk16_append_zeros, fun n l l' hl hl' hne h =>
    hne (initialBlock_inj hl hl' h)⟩
  have hlen : (p.set i b).length = p.length := List.length_set
  obtain ⟨hcover, -⟩ := chunks_bounds p.length
  rw [checksum_eq_checkAfter, checksum_eq_checkAfter, hlen]
  exact checkAfter_ne_of_chunk_ne hlen (chunk16_set_ne hi hb) (fun j hj => chunk16_set_of_ne b hj) (by omega)

/-- Settles O57: the sequence is `checkAfter`, whose step takes in one zero-padded chunk. -/
theorem checksumChainsTheChunks : Obligations.ChecksumChainsTheChunks := by
  unfold Obligations.ChecksumChainsTheChunks
  refine ⟨fun n L i h _ => initialBlock_getElem n L i h, fun k n => checkAfter_zero k n [], fun k n p _ => ?_⟩
  refine ⟨checkAfter k n p, checkAfter_zero k n p, fun j _ => ?_, checksum_eq_checkAfter k n p⟩
  rw [checkAfter_succ, xorBytes_chunk16]

/-- Settles O29: the checksum is put in `MAC` first (`withMac_keeps`), and the result in `OUT` is the same block. -/
theorem macGivesTheChecksum : Obligations.MacGivesTheChecksum := by
  unfold Obligations.MacGivesTheChecksum
  intro s
  rw [← s.input_eq_dinBytes]
  have hkeep : s.Keeps { s with mac := checksum s.key s.nonce s.input } [.mac, .out, .olen] :=
    s.withMac_keeps _ (by simp)
  exact ⟨_, exec_mac s, State.succeed_succeeded _, rfl, State.setOut_outIs_block _ (checksum s.key s.nonce s.input),
    s.setOut_keeps _ hkeep (by simp) (by simp), rfl⟩

end Sys2Proof.Machine

/-! PROOFS. The counter-mode payload cipher and `CTR` (44_stream_cipher.md R79 to R82). `Crypt` XORs every byte of the
payload with a byte of the keystream that depends on the key, the nonce and the index alone (`crypt_eq_mapIdx`); the
laws of R81 follow from that form. -/

namespace Sys2Proof.Machine

/-! ## The keystream (R79, R80) -/

/-- R79: the counter block of chunk `j`; the counter is 8 bits wide (R80). -/
def counterBlockAt (n : Bytes 8) (j : Nat) : Bytes 16 := (counterBlock n).set 0 (BitVec.ofNat 8 j)

/-- R81: the keystream's byte for byte `i` of a payload. -/
def keystreamByte (k : Bytes 16) (n : Bytes 8) (i : Nat) : Byte :=
  (eRev k (counterBlockAt n (i / 16))).toList.getD (i % 16) 0x00

theorem counterBlockAt_getElem (n : Bytes 8) (j i : Nat) (hi : i < 16) :
    (counterBlockAt n j)[i] = if i = 0 then BitVec.ofNat 8 j else (counterBlock n)[i] := by
  simp only [counterBlockAt, Vector.getElem_set, (eq_comm : 0 = i ↔ i = 0)]

theorem counterBlockAt_zero (n : Bytes 8) : counterBlockAt n 0 = counterBlock n := by
  ext1 i hi
  rw [counterBlockAt_getElem, counterBlock_getElem]
  split <;> rfl

theorem nextCounter_counterBlockAt (n : Bytes 8) (j : Nat) :
    nextCounter (counterBlockAt n j) = counterBlockAt n (j + 1) := by
  ext1 i hi
  simp only [nextCounter_getElem, counterBlockAt_getElem, BitVec.ofNat_add]
  split <;> rfl

/-- R79: within chunk `j` the keystream is `E_rev` of that chunk's counter block. -/
theorem keystreamByte_chunk (k : Bytes 16) (n : Bytes 8) (j : Nat) {i : Nat} (hi : i < 16) :
    keystreamByte k n (16 * j + i) = (eRev k (counterBlockAt n j))[i] := by
  have hdiv : (16 * j + i) / 16 = j := by omega
  have hmod : (16 * j + i) % 16 = i := by omega
  simp [keystreamByte, hdiv, hmod, List.getD_eq_getElem?_getD, hi]

/-! ## `Crypt` (R79), byte by byte -/

section
variable (k : Bytes 16) (n : Bytes 8)

/-- R79: one chunk, of at most 16 bytes. -/
theorem zipWith_xor_eRev (j : Nat) {p : List Byte} (hp : p.length ≤ 16) :
    List.zipWith (· ^^^ ·) (eRev k (counterBlockAt n j)).toList p =
      p.mapIdx fun i b => b ^^^ keystreamByte k n (16 * j + i) := by
  refine List.ext_getElem (by simpa using hp) fun i _ hi => ?_
  have hi16 : i < 16 := (by simpa using hi : i < p.length).trans_le hp
  simp [keystreamByte_chunk k n j hi16, BitVec.xor_comm]

/-- R79: the chunks from chunk `j` on, when there are enough of them for the bytes that are left. -/
theorem cryptChunks_eq_mapIdx {c : Nat} (j : Nat) {p : List Byte} (hp : p.length ≤ 16 * c) :
    cryptChunks k c (counterBlockAt n j) p = p.mapIdx fun i b => b ^^^ keystreamByte k n (16 * j + i) := by
  induction c generalizing j p with
  | zero =>
    obtain rfl : p = [] := List.length_eq_zero_iff.mp (by omega)
    rfl
  | succ c ih =>
    have hrest : (p.drop 16).length ≤ 16 * c := by rw [List.length_drop]; omega
    rw [cryptChunks, nextCounter_counterBlockAt, ih (j + 1) hrest, zipWith_xor_eRev k n j (List.length_take_le 16 p)]
    conv_rhs => rw [← List.take_append_drop 16 p, List.mapIdx_append]
    congr 1
    refine List.mapIdx_eq_mapIdx_iff.mpr fun i hi => ?_
    have hfull : (p.take 16).length = 16 := by
      rw [List.length_drop] at hi
      rw [List.length_take]
      omega
    rw [hfull, show 16 * (j + 1) + i = 16 * j + (i + 16) by omega]

/-- R81: the keystream does not depend on the payload. -/
theorem crypt_eq_mapIdx (p : List Byte) : crypt k n p = p.mapIdx fun i b => b ^^^ keystreamByte k n i := by
  obtain ⟨hcover, -⟩ := chunks_bounds p.length
  rw [crypt, ← counterBlockAt_zero, cryptChunks_eq_mapIdx k n 0 hcover]
  simp only [Nat.mul_zero, Nat.zero_add]

@[simp] theorem crypt_length (p : List Byte) : (crypt k n p).length = p.length := by
  rw [crypt_eq_mapIdx, List.length_mapIdx]

theorem crypt_getD {p : List Byte} {i : Nat} (hi : i < p.length) :
    (crypt k n p).getD i 0x00 = p.getD i 0x00 ^^^ keystreamByte k n i := by
  simp [crypt_eq_mapIdx, List.getD_eq_getElem?_getD, hi]

/-- R81: the same keystream, XORed a second time, cancels. -/
theorem crypt_crypt (p : List Byte) : crypt k n (crypt k n p) = p := by
  refine List.ext_getElem (by simp) fun i _ _ => ?_
  simp only [crypt_eq_mapIdx, List.getElem_mapIdx, BitVec.xor_assoc, BitVec.xor_self, BitVec.xor_zero]

/-- R81: a part from the front of the payload encrypts to the same part of the output. -/
theorem crypt_take (p : List Byte) (m : Nat) : crypt k n (p.take m) = (crypt k n p).take m := by
  refine List.ext_getElem (by simp) fun i _ _ => ?_
  simp only [crypt_eq_mapIdx, List.getElem_mapIdx, List.getElem_take]

end

/-! ## `CTR` (R82) -/

theorem exec_ctr (s : State) : exec .ctr s = .next (s.setOut (crypt s.key s.nonce s.input)).succeed := rfl

/-! ## The statements of the family -/

/-- Settles O51: each law is read off the byte form of `Crypt`; a payload of any length obeys them, since the counter
wraps with the index. -/
theorem cryptIsAnInvolution : Obligations.CryptIsAnInvolution := by
  unfold Obligations.CryptIsAnInvolution
  exact fun k n p _ => ⟨crypt_crypt k n p, crypt_length k n p, fun _ hi => crypt_getD k n hi, counterBlock_getElem n,
    fun m _ => crypt_take k n p m⟩

/-- Settles O30: the output is as long as the payload, so it fits in `OUT` and `OLEN` is `DLEN`. -/
theorem ctrGivesTheCiphertext : Obligations.CtrGivesTheCiphertext := by
  unfold Obligations.CtrGivesTheCiphertext
  intro s
  rw [← s.input_eq_dinBytes]
  have hlen : (crypt s.key s.nonce s.input).length = s.dlen.toNat := by simp
  have holen : BitVec.ofNat 8 (crypt s.key s.nonce s.input).length = s.dlen := by simp
  exact ⟨_, exec_ctr s, State.succeed_succeeded _, s.setOut_outIs _ (hlen.trans_lt s.dlen.isLt), holen,
    s.setOut_keeps _ (s.keeps_refl _) (by simp) (by simp), rfl⟩

end Sys2Proof.Machine

/-! PROOFS. The command packet assembler `CMDPKT` (45_command_packet.md R83 to R86): the lengths of the payload and of the
packet, what each end of the command answers, and its frame. -/

namespace Sys2Proof.Machine

/-! ## The payload and the packet (R84, R85) -/

/-- R84: with `DLEN` at most 10 the padding fills the payload up to 15 bytes. -/
theorem State.commandPayload_length {s : State} (h : s.dlen.toNat ≤ 10) : s.commandPayload.length = 15 := by
  simp only [State.commandPayload, List.length_append, List.length_cons, List.length_nil, State.input_length,
    List.length_replicate]
  omega

/-- R85: three bytes of `SEQ`, two of the checksum and the 15 of the ciphertext. -/
theorem State.commandPacket_length {s : State} (h : s.dlen.toNat ≤ 10) : s.commandPacket.length = 20 := by
  simp [State.commandPacket, State.commandPayload_length h]

/-! ## `CMDPKT` (R86) -/

theorem exec_cmdpkt_of_le {s : State} (h : s.dlen.toNat ≤ 10) :
    exec .cmdpkt s =
      .next ({ s with nonce := s.commandNonce, mac := s.commandChecksum }.setOut s.commandPacket).succeed :=
  if_neg (Nat.not_lt.mpr h)

theorem exec_cmdpkt_of_lt {s : State} (h : 10 < s.dlen.toNat) : exec .cmdpkt s = .next (s.failWith .len) := if_pos h

/-- R83: the frame of installing a nonce. -/
theorem State.withNonce_keeps (s : State) (n : Bytes 8) {rs : List Reg} (h : Reg.nonce ∈ rs) :
    s.Keeps { s with nonce := n } rs := by
  refine ⟨fun r i _ hr => ?_, rfl, fun _ _ _ => rfl, rfl, rfl⟩
  cases r
  case nonce => exact absurd h hr
  all_goals rfl

theorem State.Keeps.trans {s t u : State} {rs : List Reg} (h : s.Keeps t rs) (k : t.Keeps u rs) : s.Keeps u rs := by
  obtain ⟨hreg, hovr, hmem, hpace, hhost⟩ := h
  obtain ⟨kreg, kovr, kmem, kpace, khost⟩ := k
  exact ⟨fun r i hs hr => (kreg r i hs hr).trans (hreg r i hs hr), kovr.trans hovr,
    fun a hd ho => (kmem a hd ho).trans (hmem a hd ho), kpace.trans hpace, khost.trans hhost⟩

/-! ## The statement of the family -/

/-- Settles O31: the packet has 20 bytes, so `OUT` and `OLEN` hold it whole; the nonce and the checksum are installed
before it (`withNonce_keeps`, `withMac_keeps`). -/
theorem cmdpktAssemblesThePacket : Obligations.CmdpktAssemblesThePacket := by
  unfold Obligations.CmdpktAssemblesThePacket
  refine fun s => ⟨fun hle => ?_, fun hgt =>
    ⟨_, exec_cmdpkt_of_lt hgt, s.failWith_failed .len, s.failWith_keeps .len [], rfl⟩⟩
  have hlen : s.commandPacket.length < 256 := by simp [State.commandPacket_length hle]
  have hout := State.setOut_outIs { s with nonce := s.commandNonce, mac := s.commandChecksum } s.commandPacket hlen
  have hkeep : s.Keeps { s with nonce := s.commandNonce, mac := s.commandChecksum } [.nonce, .mac, .out, .olen] :=
    (s.withNonce_keeps s.commandNonce (by simp)).trans (State.withMac_keeps _ s.commandChecksum (by simp))
  exact ⟨_, s.commandPayload, exec_cmdpkt_of_le hle, State.succeed_succeeded _, rfl, commandNonce_eq s, rfl, hout,
    hout.1.trans (State.commandPacket_length hle), s.setOut_keeps _ hkeep (by simp) (by simp), rfl⟩

end Sys2Proof.Machine

/-! PROOFS. Control (46_control.md R90, R96, R97): the start of a command, `ZEROIZE`, and the reserved `OP` values. -/

namespace Sys2Proof.Machine

/-! ## The start of a command (R90) -/

/-- R27, R34: the three bytes after `OP` are reserved. -/
theorem ignoresWrites_afterCmd {o : Nat} (h1 : 0x000 < o) (h2 : o ≤ 0x003) : IgnoresWrites o := by
  refine .inl fun r k hk => ?_
  cases r <;> simp only [Reg.offset, Reg.size] at hk ⊢ <;> omega

/-- R9, R33: a write of either width at 0x000 stores `OP` and nothing else. -/
theorem State.writeLanes_cmd (s : State) {n : Nat} (v : Word32) (hn : n = 1 ∨ n = 4) :
    s.writeLanes 0x000 v n = { s with op := v.extractLsb' 0 8 } := by
  obtain ⟨m, rfl⟩ : ∃ m, n = m + 1 := ⟨n - 1, by omega⟩
  rw [s.writeLanes_eq_writeByte v m fun o h1 h2 => ignoresWrites_afterCmd h1 (by omega)]
  exact s.writeByte_offset .cmd (k := 0) (by decide) _

/-- R90: a write at 0x000 to an idle engine stores `OP`, and then the command starts. -/
theorem State.hostWrite_cmd {s : State} {n : Nat} (v : Word32) (hb : s.busy = false) (hn : n = 1 ∨ n = 4) :
    s.hostWrite 0x000 n v = ({ s with op := v.extractLsb' 0 8 }.startCommand, .ok) := by
  have hok : accessOk 0x000 n = true := (accessOk_iff _ _).mpr (by omega)
  rw [← s.writeLanes_cmd v hn]
  simp [State.hostWrite, hok, hb]

theorem State.withOp_regByte (s : State) (b : Byte) {r : Reg} (k : Nat) (h : r ≠ .cmd) :
    { s with op := b }.regByte r k = s.regByte r k := by
  cases r
  case cmd => exact absurd rfl h
  all_goals rfl

/-- R90: the start changes no byte of a register but `STATUS`. -/
theorem State.startCommand_regByte (s : State) {r : Reg} (k : Nat) (h : r ≠ .status) :
    s.startCommand.regByte r k = s.regByte r k := by
  cases r
  case status => exact absurd rfl h
  all_goals rfl

/-! ## `ZEROIZE` (R97) -/

theorem exec_zeroize (s : State) : exec .zeroize s = .next s.zeroed.succeed := rfl

/-- R97: `ZEROIZE` writes every register but `CMD`, `STATUS` and `CTRL`. -/
theorem mem_writes_zeroize_iff {r : Reg} : r ∈ Instr.writes .zeroize ↔ r ≠ .cmd ∧ r ≠ .status ∧ r ≠ .ctrl := by
  cases r <;> decide

/-- The registers of the window from 0x00C on are those `ZEROIZE` writes. -/
theorem mem_writes_zeroize_of_at? {o k : Nat} {r : Reg} (h : Reg.at? o = some (r, k)) (ho : 0x00C ≤ o) :
    r ∈ Instr.writes .zeroize := by
  obtain ⟨rfl, hk⟩ := Reg.at?_some h
  rw [mem_writes_zeroize_iff]
  refine ⟨?_, ?_, ?_⟩ <;> rintro rfl <;> simp only [Reg.offset, Reg.size] at hk ho <;> omega

/-- R97: clearing `DIN` and `OUT`, byte by byte. -/
theorem State.zeroed_read (s : State) (a : Nat) :
    s.zeroed.mem.read a =
      if (Reg.din.offset ≤ a ∧ a < Reg.din.offset + Reg.din.size) ∨
        (Reg.out.offset ≤ a ∧ a < Reg.out.offset + Reg.out.size) then 0x00 else s.mem.read a := by
  rw [State.zeroed_mem, Memory.read_replace, Memory.read_replace]
  by_cases ho : Reg.out.offset ≤ a ∧ a < Reg.out.offset + Reg.out.size
  · rw [if_pos ho, if_pos (.inr ho)]
    simp [Memory.unlisted]
  · by_cases hd : Reg.din.offset ≤ a ∧ a < Reg.din.offset + Reg.din.size
    · rw [if_neg ho, if_pos hd, if_pos (.inl hd)]
      simp [Memory.unlisted]
    · rw [if_neg ho, if_neg hd, if_neg (by tauto)]

/-- R5: a string of zeros reads 0x00 at every index, past its end too. -/
theorem zeros_getElem?_getD (n i : Nat) : (zeros n)[i]?.getD 0x00 = 0x00 := by
  by_cases h : i < n
  · simp [h]
  · simp [Nat.le_of_not_lt h]

/-- R97: every byte of a register that `ZEROIZE` writes becomes 0x00. -/
theorem State.zeroed_regByte_of_mem (s : State) {r : Reg} (k : Nat) (h : r ∈ Instr.writes .zeroize) :
    s.zeroed.regByte r k = 0x00 := by
  obtain ⟨hcmd, hstatus, hctrl⟩ := mem_writes_zeroize_iff.mp h
  cases r
  case cmd => exact absurd rfl hcmd
  case status => exact absurd rfl hstatus
  case ctrl => exact absurd rfl hctrl
  case din =>
    refine ite_eq_right_iff.mpr fun hk => ?_
    exact (s.zeroed_read _).trans (if_pos (.inl ⟨by omega, by omega⟩))
  case out =>
    refine ite_eq_right_iff.mpr fun hk => ?_
    exact (s.zeroed_read _).trans (if_pos (.inr ⟨by omega, by omega⟩))
  case olen | nlen | wlen | dlen | dest | opc => exact ite_self _
  all_goals exact zeros_getElem?_getD _ k

/-- R97: no other byte of a register but those of `STATUS` changes. -/
theorem State.zeroed_regByte_of_notMem (s : State) {r : Reg} (k : Nat) (h : r ∉ Instr.writes .zeroize)
    (hs : r ≠ .status) : s.zeroed.regByte r k = s.regByte r k := by
  have hr : r = .cmd ∨ r = .ctrl := by
    rw [mem_writes_zeroize_iff] at h
    tauto
  rcases hr with rfl | rfl <;> rfl

/-- R97: the frame of `ZEROIZE`. -/
theorem State.zeroed_keeps (s : State) : s.Keeps s.zeroed.succeed (Instr.writes .zeroize) := by
  refine ⟨fun r k hs hr => ?_, rfl, fun a hd ho => ?_, rfl, rfl⟩
  · rw [State.succeed_regByte _ _ hs, s.zeroed_regByte_of_notMem k hr hs]
  · have hdin := hd (by decide)
    have hout := ho (by decide)
    rw [State.succeed_mem, s.zeroed_read, if_neg (by omega)]

/-- R97: every byte of the window from 0x00C on reads 0x00. -/
theorem State.zeroed_readByte (s : State) {o : Nat} (ho : 0x00C ≤ o) : s.zeroed.succeed.readByte o = 0x00 := by
  cases hat : Reg.at? o with
  | none => exact State.readByte_reserved _ hat
  | some p =>
    obtain ⟨r, k⟩ := p
    have hmem : r ∈ Instr.writes .zeroize := mem_writes_zeroize_of_at? hat ho
    obtain ⟨-, hstatus, -⟩ := mem_writes_zeroize_iff.mp hmem
    obtain ⟨rfl, hk⟩ := Reg.at?_some hat
    rw [State.readByte_offset _ r hk, State.succeed_regByte _ _ hstatus, s.zeroed_regByte_of_mem k hmem]

/-! ## The reserved `OP` values (R96) -/

/-- R96: the seven reserved rows are one computation. -/
theorem exec_reserved {i : Instr} {op : Byte} (s : State)
    (h : i = .reserved00 ∨ i = .reserved0D ∨ i = .reserved0E ∨ i = .reserved10 op ∨ i = .reserved20 op ∨
      i = .reserved40 op ∨ i = .reserved80 op) : exec i s = .next (s.failWith .badcmd) := by
  obtain rfl | rfl | rfl | rfl | rfl | rfl | rfl := h <;> rfl

/-! ## The statements of the family -/

/-- Settles O23: the write is the store of `OP` followed by the start (`hostWrite_cmd`); each of the two leaves the
other registers alone. -/
theorem commandWriteStartsACommand : Obligations.CommandWriteStartsACommand := by
  unfold Obligations.CommandWriteStartsACommand
  intro s n v hb hn
  refine ⟨_, State.hostWrite_cmd v hb hn, rfl, rfl, rfl, rfl, rfl, rfl, rfl, rfl, fun r k hcmd hstatus => ?_,
    fun _ => rfl⟩
  rw [State.startCommand_regByte _ k hstatus, State.withOp_regByte s _ k hcmd]

/-- Settles O35: the registers `ZEROIZE` writes are exactly those from 0x00C on, and it clears them
(`zeroed_readByte`, `zeroed_keeps`). -/
theorem zeroizeClearsEverything : Obligations.ZeroizeClearsEverything := by
  unfold Obligations.ZeroizeClearsEverything
  intro s
  exact ⟨_, exec_zeroize s, State.succeed_succeeded _, fun _ ho => s.zeroed_readByte ho, rfl, rfl, rfl, rfl,
    s.zeroed_keeps⟩

/-- Settles O36: the completion is the failure with BADCMD (`exec_reserved`), and any write to `CMD` starts the busy
period (`hostWrite_cmd`). -/
theorem reservedValuesFailWithBadcmd : Obligations.ReservedValuesFailWithBadcmd := by
  unfold Obligations.ReservedValuesFailWithBadcmd
  intro s op i hi
  refine ⟨⟨_, exec_reserved s hi, s.failWith_failed .badcmd, s.failWith_keeps .badcmd [], rfl⟩, fun hb => ?_⟩
  rw [State.hostWrite_cmd _ hb (.inl rfl), State.startCommand_busy]

end Sys2Proof.Machine

/-! PROOFS. Errors and the interrupt output (60_exceptions.md R98, R99, R104): which ending each command has, where
`STATUS` shows the error code, and what moves `IE` and `DONE`. -/

namespace Sys2Proof.Machine

/-! ## The endings of the commands, by their cause (R98) -/

/-- R44: the commands; every other value is reserved. -/
def definedCommands : List Instr :=
  [.encblk, .keymat, .kdf, .pair, .mac, .ctr, .cmdpkt, .reconfName, .reconfPass, .reconfLtk, .rspPair, .rspReconf,
    .zeroize]

/-- R98: the causes of LEN. -/
def State.LengthRefused (s : State) (i : Instr) : Prop :=
  (i = .encblk ∧ s.dlen.toNat ≠ 16) ∨ (i = .cmdpkt ∧ 10 < s.dlen.toNat)

/-- R98: a command whose length operand is refused is no reserved value. -/
theorem State.LengthRefused.mem_definedCommands {s : State} {i : Instr} (h : s.LengthRefused i) :
    i ∈ definedCommands := by
  obtain ⟨rfl, -⟩ | ⟨rfl, -⟩ := h <;> simp [definedCommands]

/-- R98, R91: the three endings of a command, each with its cause. -/
theorem exec_endings (i : Instr) (s : State) :
    (i ∉ definedCommands ∧ exec i s = .next (s.failWith .badcmd)) ∨
    (s.LengthRefused i ∧ exec i s = .next (s.failWith .len)) ∨
    (i ∈ definedCommands ∧ ¬ s.LengthRefused i ∧ ∃ t, exec i s = .next t ∧ t.Succeeded) := by
  cases i
  case encblk =>
    have hlen : s.dlen.toNat = 16 ↔ s.dlen = 16 := BitVec.toNat_inj (y := (16 : Byte))
    by_cases h : s.dlen = 16
    · exact .inr (.inr ⟨by simp [definedCommands], by simp [State.LengthRefused, h], _, execEncblk_of_dlen_eq h,
        State.succeed_succeeded _⟩)
    · exact .inr (.inl ⟨.inl ⟨rfl, mt hlen.mp h⟩, execEncblk_of_dlen_ne h⟩)
  case cmdpkt =>
    by_cases h : 10 < s.dlen.toNat
    · exact .inr (.inl ⟨.inr ⟨rfl, h⟩, exec_cmdpkt_of_lt h⟩)
    · exact .inr (.inr ⟨by simp [definedCommands], by simp [State.LengthRefused, h], _,
        exec_cmdpkt_of_le (Nat.not_lt.mp h), State.succeed_succeeded _⟩)
  case rspPair =>
    obtain ⟨t, ht, hsucc, -⟩ := rspPairClassifiesTheResponse s
    exact .inr (.inr ⟨by simp [definedCommands], by simp [State.LengthRefused], t, ht, hsucc⟩)
  case rspReconf =>
    exact .inr (.inr ⟨by simp [definedCommands], by simp [State.LengthRefused], _, exec_rspReconf s,
      State.succeed_succeeded _⟩)
  case reserved00 | reserved0D | reserved0E | reserved10 | reserved20 | reserved40 | reserved80 =>
    exact .inl ⟨by simp [definedCommands], rfl⟩
  all_goals
    exact .inr (.inr ⟨by simp [definedCommands], by simp [State.LengthRefused], _, rfl, State.succeed_succeeded _⟩)

/-! ## The error code in `STATUS` (R10, R98) -/

/-- R30, R32: the low lane of a read of any width is the byte at its address. -/
theorem State.readLanes_getLsbD_of_lt_eight (s : State) (a : Nat) {i : Nat} (hi : i < 8) (n : Nat) :
    (s.readLanes a (n + 1)).getLsbD i = (s.readByte a).getLsbD i := by
  induction n with
  | zero => simp [State.readLanes, show i < 32 by omega]
  | succ n ih =>
    have habove : i < 8 * (n + 1) := by omega
    rw [State.readLanes, BitVec.getLsbD_or, ih]
    simp [habove]

/-- R32: byte 0 of `STATUS` is `ECODE` with the four flag bits put below it, one at a time. -/
theorem State.statusLow_eq_concat (s : State) :
    s.statusLow = (((s.ecode.code.concat s.ovr).concat s.err).concat s.done).concat s.busy := rfl

/-- R10: bits 7:4 of `STATUS` are `ECODE`. -/
theorem State.statusLow_getLsbD_ecode (s : State) (i : Nat) : s.statusLow.getLsbD (i + 4) = s.ecode.code.getLsbD i := by
  rw [s.statusLow_eq_concat]
  simp only [BitVec.getLsbD_concat_succ]

theorem State.readLanes_status_ecode (s : State) : (s.readLanes 0x004 4).extractLsb' 4 4 = s.ecode.code := by
  have hbyte : s.readByte 0x004 = s.statusLow := s.readByte_offset .status (i := 0) (by decide)
  refine BitVec.eq_of_getLsbD_eq fun i hi => ?_
  rw [BitVec.getLsbD_extractLsb', Nat.add_comm 4 i, s.readLanes_getLsbD_of_lt_eight 0x004 (by omega) 3, hbyte,
    s.statusLow_getLsbD_ecode]
  simp [hi]

/-! ## Writes to `CTRL` (R11) -/

/-- R34: bytes 1 to 3 of `CTRL` cannot be written. -/
theorem ignoresWrites_ctrl {o : Nat} (h1 : 0x008 < o) (h2 : o ≤ 0x00B) : IgnoresWrites o := by
  refine .inr ⟨.ctrl, o - 0x008, ?_, ?_, .inr ⟨by decide, by omega⟩⟩
  · simp only [Reg.offset]; omega
  · simp only [Reg.size]; omega

/-- R11, R33: a write to `CTRL` of either width, whatever `BUSY` is, sets `IE` to its bit 0. -/
theorem State.hostWrite_ctrl (s : State) {n : Nat} (v : Word32) (hn : n = 1 ∨ n = 4) :
    s.hostWrite 0x008 n v = ({ s with ie := v.getLsbD 0 }, .ok) := by
  have hok : accessOk 0x008 n = true := (accessOk_iff _ _).mpr (by omega)
  have hbit : (v.extractLsb' 0 8).getLsbD 0 = v.getLsbD 0 := by simp
  have hlanes : s.writeLanes 0x008 v n = { s with ie := v.getLsbD 0 } := by
    obtain ⟨m, rfl⟩ : ∃ m, n = m + 1 := ⟨n - 1, by omega⟩
    rw [s.writeLanes_eq_writeByte v m fun o h1 h2 => ignoresWrites_ctrl h1 (by omega), ← hbit]
    exact s.writeByte_offset .ctrl (k := 0) (by decide) _
  rw [State.hostWrite_of_performed v (by decide) hok (by decide) (.inr (by decide)), hlanes]

/-! ## The interrupt output (R104) -/

/-- R104: with `DONE` 0 the output is low, whatever `IE` is. -/
theorem State.irq_of_done_eq_false {s : State} (h : s.done = false) : s.irq = false := by simp [State.irq, h]

/-- R104, R91: a completion, of either kind, sets `DONE` and leaves `IE`, so the output is then `IE`. -/
theorem irq_of_exec {i : Instr} {s t : State} (h : exec i s = .next t) : t.irq = s.ie := by
  rcases exec_cases i s with ⟨e, -, he⟩ | ⟨u, he, -, -, hie, -, -⟩
  · obtain rfl := Host.Outcome.next.inj (he.symm.trans h)
    simp [State.irq]
  · obtain rfl := Host.Outcome.next.inj (he.symm.trans h)
    simp [State.irq, hie]

/-! ## The statements of the family -/

/-- Settles O24: a completion leaves `DONE` 1 and `IE` alone (`irq_of_exec`); the other events are a write to `CTRL`,
the clearing write to `STATUS`, the start of a command and reset, each by what it does to the two bits. -/
theorem interruptFollowsDoneAndEnable : Obligations.InterruptFollowsDoneAndEnable := by
  unfold Obligations.InterruptFollowsDoneAndEnable
  refine ⟨fun _ => rfl, fun _ _ _ h => irq_of_exec h, fun s n v hn => ⟨?ctrl, fun h1 => ?clear, fun hb => ?start⟩,
    fun _ => rfl⟩
  case ctrl => rw [s.hostWrite_ctrl v hn]; rfl
  case clear =>
    rw [s.hostWrite_status v hn]
    exact State.irq_of_done_eq_false (by simp [h1])
  case start =>
    rw [State.hostWrite_cmd v hb hn]
    exact State.irq_of_done_eq_false (State.startCommand_done _)

/-- Settles O37: the completion is `failWith` with a code, since a success leaves `ERR` 0 (`exec_cases`). -/
theorem failingCommandWritesOnlyStatus : Obligations.FailingCommandWritesOnlyStatus := by
  unfold Obligations.FailingCommandWritesOnlyStatus
  intro i s t h herr
  rcases exec_cases i s with ⟨e, hcode, he⟩ | ⟨u, he, -⟩
  · obtain rfl := Host.Outcome.next.inj (he.symm.trans h)
    exact ⟨hcode, rfl⟩
  · obtain rfl := Host.Outcome.next.inj (he.symm.trans h)
    simp at herr

/-- Settles O38: each ending has its cause, and the causes exclude each other (`exec_endings`); `ECODE` is bits 7:4 of
`STATUS` (`readLanes_status_ecode`), and the start clears it. -/
theorem errorCodesHaveTheSpecsCauses : Obligations.ErrorCodesHaveTheSpecsCauses := by
  unfold Obligations.ErrorCodesHaveTheSpecsCauses
  refine ⟨fun i s t h => ?_, fun s => ⟨_, s.hostRead_of_accepted (by decide) (by decide), ?_⟩, fun s n v hb hn => ?_⟩
  · change (_ ↔ i ∉ definedCommands) ∧ (_ ↔ s.LengthRefused i) ∧ _
    rcases exec_endings i s with ⟨hreserved, he⟩ | ⟨hlen, he⟩ | ⟨hdefined, hlen, u, he, -, -, herr, hcode⟩
    all_goals obtain rfl := Host.Outcome.next.inj (he.symm.trans h)
    · have hlen : ¬ s.LengthRefused i := fun hl => hreserved hl.mem_definedCommands
      simp [hreserved, hlen]
    · simp [hlen, hlen.mem_definedCommands]
    · simp [hdefined, hlen, herr, hcode]
  · rw [s.readLanes_status_ecode]
    cases s.ecode <;> rfl
  · rw [State.hostWrite_cmd v hb hn, State.startCommand_ecode]

end Sys2Proof.Machine

/-! PROOFS. The state after reset (70_reset_and_hazards.md R113).

Each register's bytes are 0x00 after reset, `STATUS` and `CTRL` with their fields assembled into bytes and the two
buffers through a memory that lists nothing; every other byte of the window is reserved. -/

namespace Sys2Proof.Machine

/-- R113, R10: with every field of `STATUS` at its reset value, all four bytes of the register are 0x00. -/
theorem State.reset_statusByte (i : Nat) : State.reset.statusByte i = 0x00 := by
  have hlow : State.reset.statusLow = 0x00 := by decide
  have hresp : State.reset.resp.code.setWidth 8 = (0x00 : Byte) := by decide
  simp [State.statusByte, hlow, hresp]

/-- R113: every byte of every register is 0x00 after reset. -/
theorem State.reset_regByte (r : Reg) (i : Nat) : State.reset.regByte r i = 0x00 := by
  cases r
  case status => exact State.reset_statusByte i
  case cmd | ctrl | olen | nlen | wlen | dlen | dest | opc | din | out => exact ite_self _
  all_goals exact zeros_getElem?_getD _ i

/-- R113, R32: every offset reads 0x00 after reset, at a register's byte and at a reserved one. -/
theorem State.reset_readByte (o : Nat) : State.reset.readByte o = 0x00 := by
  cases hat : Reg.at? o with
  | none => exact State.readByte_reserved _ hat
  | some p =>
    obtain ⟨r, i⟩ := p
    obtain ⟨rfl, hi⟩ := Reg.at?_some hat
    rw [State.readByte_offset _ r hi, State.reset_regByte]

/-- Settles O12: the bytes by `reset_readByte`; the fields of `STATUS` and `CTRL` are those `State.reset` names, and
with `DONE` 0 the output is low (R104). -/
theorem resetReadsZeroEverywhere : Obligations.ResetReadsZeroEverywhere := by
  unfold Obligations.ResetReadsZeroEverywhere
  exact ⟨fun o _ => State.reset_readByte o, rfl, rfl, rfl, rfl, rfl, rfl, rfl, State.irq_of_done_eq_false rfl⟩

end Sys2Proof.Machine

/-! PROOFS. The command encoding, both ways (30_encoding.md R42, R44): the decoder undoes the encoder on well-formed
commands, and every byte is the word of one command on one row of the table. -/

namespace Sys2Proof

/-! ## The reserved rows: their well-formed bytes -/

theorem wellFormed_reserved10_iff (op : Byte) : (Instr.reserved10 op).wellFormed = true ↔ op.toNat / 2 ^ 4 = 1 :=
  beq_iff_eq.trans (and_highMask_eq_iff op (k := 4) (by decide))

theorem wellFormed_reserved20_iff (op : Byte) : (Instr.reserved20 op).wellFormed = true ↔ op.toNat / 2 ^ 5 = 1 :=
  beq_iff_eq.trans (and_highMask_eq_iff op (k := 5) (by decide))

theorem wellFormed_reserved40_iff (op : Byte) : (Instr.reserved40 op).wellFormed = true ↔ op.toNat / 2 ^ 6 = 1 :=
  beq_iff_eq.trans (and_highMask_eq_iff op (k := 6) (by decide))

theorem wellFormed_reserved80_iff (op : Byte) : (Instr.reserved80 op).wellFormed = true ↔ op.toNat / 2 ^ 7 = 1 :=
  beq_iff_eq.trans (and_highMask_eq_iff op (k := 7) (by decide))

/-! ## The decoder and the encoder undo each other -/

/-- R44: a command without an operand is the one of its own byte; a reserved row's byte lies in that row's range, where
`decodeOp_of_sixteen_le` finds the row. -/
theorem decodeOp_encodeOp {i : Instr} (h : i.wellFormed = true) : decodeOp (encodeOp i) = i := by
  cases i
  case reserved10 op =>
    rw [wellFormed_reserved10_iff] at h
    rw [encodeOp, decodeOp_of_sixteen_le (by omega), if_pos h]
  case reserved20 op =>
    rw [wellFormed_reserved20_iff] at h
    rw [encodeOp, decodeOp_of_sixteen_le (by omega), if_neg (by omega), if_pos h]
  case reserved40 op =>
    rw [wellFormed_reserved40_iff] at h
    rw [encodeOp, decodeOp_of_sixteen_le (by omega), if_neg (by omega), if_neg (by omega), if_pos h]
  case reserved80 op =>
    rw [wellFormed_reserved80_iff] at h
    rw [encodeOp, decodeOp_of_sixteen_le (by omega), if_neg (by omega), if_neg (by omega), if_neg (by omega)]
  all_goals rfl

/-- R44: the sixteen low values of `OP`, each with a row of its own. -/
theorem decodeOp_low : ∀ n < 16, (decodeOp (BitVec.ofNat 8 n)).wellFormed = true ∧
    encodeOp (decodeOp (BitVec.ofNat 8 n)) = BitVec.ofNat 8 n := by decide

/-- R44: every byte selects a well-formed command, whose byte it is. -/
theorem wellFormed_decodeOp (op : Byte) : (decodeOp op).wellFormed = true ∧ encodeOp (decodeOp op) = op := by
  by_cases hlow : op.toNat < 16
  · simpa using decodeOp_low op.toNat hlow
  · have hlt : op.toNat < 256 := op.isLt
    rw [decodeOp_of_sixteen_le (by omega)]
    split
    case isTrue h4 => exact ⟨(wellFormed_reserved10_iff op).mpr h4, rfl⟩
    case isFalse h4 =>
      split
      case isTrue h5 => exact ⟨(wellFormed_reserved20_iff op).mpr h5, rfl⟩
      case isFalse h5 =>
        split
        case isTrue h6 => exact ⟨(wellFormed_reserved40_iff op).mpr h6, rfl⟩
        case isFalse h6 => exact ⟨(wellFormed_reserved80_iff op).mpr (by omega), rfl⟩

/-! ## The rows of the table -/

theorem row_mem_tableRows (i : Instr) : i.row ∈ tableRows := by cases i <;> simp [Instr.row, tableRows]

/-- R42: the byte of a well-formed command matches its row. -/
theorem encodeOp_on_row {i : Instr} (h : i.wellFormed = true) : encodeOp i &&& i.row.1 = i.row.2 := by
  cases i
  case reserved10 op => exact Laws.EncodingOnRow.reserved10 op h
  case reserved20 op => exact Laws.EncodingOnRow.reserved20 op h
  case reserved40 op => exact Laws.EncodingOnRow.reserved40 op h
  case reserved80 op => exact Laws.EncodingOnRow.reserved80 op h
  all_goals rfl

/-- R42: a byte matches one row only, since in two different rows some bit that both masks look at differs. -/
theorem row_unique {op : Byte} {x y : Byte × Byte} (hx : x ∈ tableRows) (hy : y ∈ tableRows)
    (hopx : op &&& x.1 = x.2) (hopy : op &&& y.1 = y.2) : x = y := by
  by_contra hne
  have hsymm : Std.Symm fun x y : Byte × Byte => x.1 &&& y.1 &&& (x.2 ^^^ y.2) ≠ 0 := ⟨fun x y h => by
    rwa [BitVec.and_comm y.1, BitVec.xor_comm y.2]⟩
  refine Tests.test_rows_disjoint.forall hx hy hne ?_
  rw [← hopx, ← hopy]
  refine BitVec.eq_of_getLsbD_eq fun i _ => ?_
  cases hi : x.1.getLsbD i <;> simp +contextual [hi]

/-! ## The statements -/

/-- Settles O2: the one byte of the word decodes to the command (`decodeOp_encodeOp`), and the decoder takes no more. -/
theorem decodeOfEncodeIsTheCommand : Obligations.DecodeOfEncodeIsTheCommand := by
  unfold Obligations.DecodeOfEncodeIsTheCommand
  intro i rest h
  exact congrArg (fun j => Except.ok (j, rest)) (decodeOp_encodeOp h)

/-- Settles O3: the byte lies on its command's row (`encodeOp_on_row`) and on no other (`row_unique`). -/
theorem everyByteIsTheWordOfOneCommand : Obligations.EveryByteIsTheWordOfOneCommand := by
  unfold Obligations.EveryByteIsTheWordOfOneCommand
  intro op
  obtain ⟨hwf, hop⟩ := wellFormed_decodeOp op
  have hrow : op &&& (decodeOp op).row.1 = (decodeOp op).row.2 := by
    have h := encodeOp_on_row hwf
    rwa [hop] at h
  refine ⟨hwf, hop, fun row hmem => ⟨row_unique (row_mem_tableRows _) hmem hrow, ?_⟩⟩
  rintro rfl
  exact hrow

end Sys2Proof

/-! PROOFS. The machine invariant (10_state.md R12, 46_control.md R90, 60_exceptions.md R98, R99; log 7): what holds at
reset, and that the completion of a command and each line of the host keep it. -/

namespace Sys2Proof.Machine

/-! ## The buffers' canonical form (R25, log 7) -/

/-- Replacing a stretch inside the two buffers keeps their canonical form. -/
theorem State.BuffersCanonical.replace {s u : State} {base len : Nat} {bs : List Byte} (h : s.BuffersCanonical)
    (hlo : Reg.din.offset ≤ base) (hhi : base + len ≤ Reg.out.offset + Reg.out.size)
    (hu : u.mem = s.mem.replace base len bs) : u.BuffersCanonical := by
  obtain ⟨hwf, hrange⟩ := h
  refine ⟨hu ▸ Memory.replace_wf hwf base len bs, fun c hc => ?_⟩
  rcases Memory.mem_replace (hu ▸ hc) with hold | hnew
  · exact hrange c hold
  · omega

/-! ## Completions (R91, R99) -/

/-- R12, R94: a result in `OUT` is followed by zeros. -/
theorem State.OutIs.padded {t : State} {r : List Byte} (h : t.OutIs r) : t.OutputPadded := by
  obtain ⟨hlen, hbyte⟩ := h
  intro i hi hle
  rw [hbyte i hi, List.getD_eq_default _ _ (by omega)]

/-- R91: a command that succeeds leaves no error and is not running, so the buffers are what is left to show. -/
theorem State.inv_succeed {u : State} (hbuf : u.BuffersCanonical) (hpad : u.OutputPadded) : u.succeed.Inv :=
  ⟨hbuf, fun h => absurd h (by simp), fun h => absurd h (by simp), hpad⟩

/-- R94: a command that puts a result in `OUT`, after writing only registers outside the buffers. -/
theorem State.Inv.setOut {s u : State} (h : s.Inv) (hu : u.mem = s.mem) {r : List Byte} (hr : r.length < 256) :
    (u.setOut r).succeed.Inv :=
  State.inv_succeed (h.buffers.replace (by decide) (by decide) (hu ▸ u.setOut_mem r)) (u.setOut_outIs r hr).padded

/-- R72, R73: a command that leaves the buffers and `OLEN` alone. -/
theorem State.Inv.classified {s : State} (h : s.Inv) (rr : Bytes 8) (c : Resp) :
    { s with rr := rr, resp := c }.succeed.Inv :=
  State.inv_succeed h.buffers h.padded

/-- R99: a command that fails does so with a code. -/
theorem State.Inv.failWith {s : State} (h : s.Inv) {e : ErrorCode} (he : e ≠ .none) : (s.failWith e).Inv :=
  ⟨h.buffers, fun hb => absurd hb (by simp), fun _ => he, h.padded⟩

/-- R97: the cleared buffers. -/
theorem State.Inv.zeroed {s : State} (h : s.Inv) : s.zeroed.succeed.Inv := by
  refine State.inv_succeed ?_ fun i hi _ => ?_
  · have hdin : { s with mem := s.mem.replace Reg.din.offset Reg.din.size [] }.BuffersCanonical :=
      h.buffers.replace (by decide) (by decide) rfl
    exact hdin.replace (by decide) (by decide) s.zeroed_mem
  · exact (s.zeroed_read _).trans (if_pos (.inr ⟨by omega, by omega⟩))

/-- R91: the completion of every command keeps the invariant. -/
theorem State.Inv.exec {s t : State} (h : s.Inv) {i : Instr} (ht : exec i s = .next t) : t.Inv := by
  suffices hex : ∃ u, Machine.exec i s = .next u ∧ u.Inv by
    obtain ⟨u, hu, hinv⟩ := hex
    exact Host.Outcome.next.inj (hu.symm.trans ht) ▸ hinv
  cases i
  case encblk =>
    by_cases hlen : s.dlen = 16
    · exact ⟨_, execEncblk_of_dlen_eq hlen, h.setOut (by rfl) (by simp)⟩
    · exact ⟨_, execEncblk_of_dlen_ne hlen, h.failWith (by decide)⟩
  case cmdpkt =>
    rcases Nat.lt_or_ge 10 s.dlen.toNat with hlt | hle
    · exact ⟨_, exec_cmdpkt_of_lt hlt, h.failWith (by decide)⟩
    · have hlen : s.commandPacket.length < 256 := by simp [State.commandPacket_length hle]
      exact ⟨_, exec_cmdpkt_of_le hle, h.setOut (by rfl) hlen⟩
  case rspPair =>
    by_cases hacc : 9 ≤ s.dlen.toNat ∧ s.dinByte 0 = 0x0D
    · exact ⟨_, execRspPair_of_accepted hacc, h.classified _ _⟩
    · by_cases hrej : 1 ≤ s.dlen.toNat ∧ s.dinByte 0 = 0x0E
      · exact ⟨_, execRspPair_of_rejected hrej, h.classified s.rr _⟩
      · exact ⟨_, execRspPair_of_violation hacc hrej, h.classified s.rr _⟩
  case rspReconf => exact ⟨_, exec_rspReconf s, h.classified s.rr _⟩
  case zeroize => exact ⟨_, exec_zeroize s, h.zeroed⟩
  case ctr => exact ⟨_, exec_ctr s, h.setOut (by rfl) (by simpa using s.dlen.isLt)⟩
  case pair => exact ⟨_, exec_pair s, h.setOut (by rfl) (by simp [s.pairTag_length])⟩
  case keymat | kdf | mac | reconfName | reconfPass | reconfLtk => exact ⟨_, rfl, h.setOut (by rfl) (by simp)⟩
  case reserved00 | reserved0D | reserved0E | reserved10 | reserved20 | reserved40 | reserved80 =>
    exact ⟨_, rfl, h.failWith (e := .badcmd) (by decide)⟩

/-! ## Host writes (R33, R35, R90) -/

/-- R33: the byte store keeps the canonical form; the one buffer it reaches is `DIN`. -/
theorem State.BuffersCanonical.writeByte {s : State} (h : s.BuffersCanonical) (o : Nat) (b : Byte) :
    (s.writeByte o b).BuffersCanonical := by
  cases hat : Reg.at? o with
  | none => simpa only [State.writeByte, hat] using h
  | some p =>
    obtain ⟨r, k⟩ := p
    obtain ⟨rfl, hk⟩ := Reg.at?_some hat
    rw [State.writeByte_offset s r hk]
    cases r
    case din =>
      simp only [Reg.size] at hk
      exact h.replace (base := Reg.din.offset + k) (len := 1) (by omega) (by simp only [Reg.offset, Reg.size]; omega) rfl
    case status | ctrl => simp only [State.writeReg]; split <;> exact h
    all_goals exact h

/-- R10, R33: the byte store raises neither `DONE` nor `ERR`; it can only clear them. -/
theorem State.writeByte_flags (s : State) (o : Nat) (b : Byte) :
    ((s.writeByte o b).done = true → s.done = true) ∧ ((s.writeByte o b).err = true → s.err = true) := by
  cases hat : Reg.at? o with
  | none => simp only [State.writeByte, hat]; exact ⟨id, id⟩
  | some p =>
    obtain ⟨r, k⟩ := p
    simp only [State.writeByte, hat]
    cases r
    case status =>
      simp only [State.writeReg]
      split
      · simp only [State.clearStatus_done, State.clearStatus_err, Bool.and_eq_true]
        exact ⟨And.left, And.left⟩
      · exact ⟨id, id⟩
    case ctrl => simp only [State.writeReg]; split <;> exact ⟨id, id⟩
    all_goals exact ⟨id, id⟩

theorem State.Inv.writeByte {s : State} (h : s.Inv) (o : Nat) (b : Byte) : (s.writeByte o b).Inv := by
  obtain ⟨hbusy, hecode, -, holen, -, -, -⟩ := s.writeByte_keeps o b
  obtain ⟨hdone, herr⟩ := s.writeByte_flags o b
  refine ⟨h.buffers.writeByte o b, fun hb => ?_, fun he => ?_, fun i hi hle => ?_⟩
  · obtain ⟨hd, he, hc⟩ := h.running (hbusy ▸ hb)
    exact ⟨Bool.eq_false_iff.mpr fun hd' => Bool.eq_false_iff.mp hd (hdone hd'),
      Bool.eq_false_iff.mpr fun he' => Bool.eq_false_iff.mp he (herr he'), hecode.trans hc⟩
  · exact hecode ▸ h.coded (herr he)
  · rw [State.writeByte_outByte]
    exact h.padded i hi (holen ▸ hle)

theorem State.Inv.writeLanes {s : State} (h : s.Inv) (a : Nat) (v : Word32) (n : Nat) : (s.writeLanes a v n).Inv := by
  induction n with
  | zero => exact h
  | succ n ih => exact ih.writeByte _ _

/-- R90: the start of a command clears what must be clear while it runs. -/
theorem State.Inv.startCommand {s : State} (h : s.Inv) : s.startCommand.Inv :=
  ⟨h.buffers, fun _ => ⟨rfl, rfl, rfl⟩, fun he => absurd he (by simp), h.padded⟩

/-- The invariant speaks of the engine's registers but `OVR`, not of the host or of the latencies. -/
theorem State.Inv.withAgents {s : State} (h : s.Inv) (ovr : Bool) (p : Pace) (a : HostAgent) :
    { s with ovr := ovr, pace := p, host := a }.Inv :=
  ⟨h.buffers, h.running, h.coded, h.padded⟩

theorem State.Inv.hostWrite {s : State} (h : s.Inv) (a n : Nat) (v : Word32) : (s.hostWrite a n v).1.Inv := by
  rcases s.hostWrite_cases a n v with ⟨-, e⟩ | ⟨-, -, e⟩ | ⟨-, -, -, -, e⟩ | ⟨-, -, -, e⟩ | ⟨-, -, -, -, e⟩ <;> rw [e]
  · exact h
  · exact h
  · exact h.withAgents true s.pace s.host
  · exact (h.writeLanes a v n).startCommand
  · exact h.writeLanes a v n

/-! ## The statements -/

/-- Settles O42: at reset the buffers list nothing, and no flag is set. -/
theorem resetMeetsTheMachineInvariant : Obligations.ResetMeetsTheMachineInvariant := by
  unfold Obligations.ResetMeetsTheMachineInvariant
  exact ⟨⟨⟨Memory.wf_nil, fun _ hc => absurd hc List.not_mem_nil⟩, by decide, by decide, fun _ _ _ => rfl⟩, rfl⟩

/-- R37, R47: every line of the host keeps the invariant. -/
theorem State.Inv.hostLine {s : State} (h : s.Inv) (ln : Line) : (s.hostLine ln).Inv := by
  cases ln with
  | write off w src => exact (h.hostWrite off w (s.host.value src)).withAgents _ _ _
  | read off w t => exact h.withAgents s.ovr s.pace _
  | bit1 t k g => exact h.withAgents s.ovr s.pace _
  | reset => exact resetMeetsTheMachineInvariant.1.withAgents State.reset.ovr _ _

/-- Settles O43: a step is a completion, which keeps the invariant (`Inv.exec`), a line of the host (`Inv.hostLine`), or
nothing. -/
theorem everyStepKeepsTheMachineInvariant : Obligations.EveryStepKeepsTheMachineInvariant := by
  unfold Obligations.EveryStepKeepsTheMachineInvariant
  intro s t h hstep
  rcases step_cases hstep with ⟨-, hexec⟩ | ⟨-, -, rfl⟩ | ⟨-, ln, -, rfl⟩
  · exact h.exec hexec
  · exact h
  · exact (h.withAgents s.ovr s.tick.pace s.host).hostLine ln

end Sys2Proof.Machine

/-! PROOFS. Steps and runs (46_control.md R90 to R93, 20_memory.md R35, 60_exceptions.md R105, R114): a running command
keeps what it reads until it completes, and it completes; then the runs of one host beside it. -/

namespace Sys2Proof.Machine

/-! ## Single steps -/

/-- R105: the completion of every command has a next state. -/
theorem exec_next (i : Instr) (s : State) : ∃ t, exec i s = .next t := by
  rcases exec_cases i s with ⟨e, -, he⟩ | ⟨u, he, -⟩
  · exact ⟨_, he⟩
  · exact ⟨_, he⟩

/-- R91, R99: a completed command is no longer running and has set `DONE`. -/
theorem exec_completes {i : Instr} {s t : State} (h : exec i s = .next t) : t.busy = false ∧ t.done = true := by
  rcases exec_cases i s with ⟨e, -, he⟩ | ⟨u, he, -⟩
  all_goals obtain rfl := Host.Outcome.next.inj (he.symm.trans h); exact ⟨rfl, rfl⟩

/-- R91: a completion leaves the model's own fields alone. -/
theorem exec_keeps_agents {i : Instr} {s t : State} (h : exec i s = .next t) :
    t.ovr = s.ovr ∧ t.pace = s.pace ∧ t.host = s.host := by
  rcases exec_cases i s with ⟨e, -, he⟩ | ⟨u, he, -, hovr, -, hpace, hhost⟩
  · obtain rfl := Host.Outcome.next.inj (he.symm.trans h)
    exact ⟨rfl, rfl, rfl⟩
  · obtain rfl := Host.Outcome.next.inj (he.symm.trans h)
    exact ⟨hovr, hpace, hhost⟩

/-- R91: with `BUSY` 0 the engine has no step. -/
theorem engineTurn_of_idle {s : State} (hb : s.busy = false) : s.engineTurn = false := by simp [State.engineTurn, hb]

/-- While the host has a line, the engine's turn comes when the latency is over. -/
theorem engineTurn_of_line {s : State} {ln : Line} (hl : s.host.current = some ln) :
    s.engineTurn = (s.busy && s.pace.pending == 0) := by simp [State.engineTurn, hl]

/-- R37: when it is not the engine's turn and the host has a line, the step is that line. -/
theorem step_line {s : State} {ln : Line} (he : s.engineTurn = false) (hl : s.host.current = some ln) :
    step s = .next (s.tick.hostLine ln) := by
  rw [step_host he, State.hostTurn, hl]

/-- R114: with no line left, either. -/
theorem step_idle {s : State} (he : s.engineTurn = false) (hl : s.host.current = none) : step s = .next s := by
  rw [step_host he, State.hostTurn, hl]

/-- R112: a reset line leaves no command running. -/
theorem State.hostLine_reset_busy (s : State) : (s.hostLine .reset).busy = false := rfl

/-! ## Completions of agreeing states

Two states that agree on what a command may read have the same completion, but for the clearable bits of `STATUS`, `IE`
and the model's own fields. -/

theorem State.Agree.exists_eq {s u : State} (h : s.Agree u) : ∃ done err ovr ie pace host,
    u = { s with done := done, err := err, ovr := ovr, ie := ie, pace := pace, host := host } := by
  refine ⟨u.done, u.err, u.ovr, u.ie, u.pace, u.host, ?_⟩
  cases u
  cases h
  simp_all

/-- R92: a command computes from nothing but the registers that agreeing states share. -/
theorem exec_agree (i : Instr) {s u : State} (h : s.Agree u) :
    ∃ t₀ t, exec i s = .next t₀ ∧ exec i u = .next t ∧ t₀.Agree t ∧ t.err = t₀.err := by
  obtain ⟨done, err, ovr, ie, pace, host, rfl⟩ := h.exists_eq
  cases i
  case encblk =>
    by_cases hlen : s.dlen = 16
    · exact ⟨_, _, execEncblk_of_dlen_eq hlen, execEncblk_of_dlen_eq hlen, by constructor <;> rfl, rfl⟩
    · exact ⟨_, _, execEncblk_of_dlen_ne hlen, execEncblk_of_dlen_ne hlen, by constructor <;> rfl, rfl⟩
  case cmdpkt =>
    rcases Nat.lt_or_ge 10 s.dlen.toNat with hlt | hle
    · exact ⟨_, _, exec_cmdpkt_of_lt hlt, exec_cmdpkt_of_lt hlt, by constructor <;> rfl, rfl⟩
    · exact ⟨_, _, exec_cmdpkt_of_le hle, exec_cmdpkt_of_le hle, by constructor <;> rfl, rfl⟩
  case rspPair =>
    by_cases hacc : 9 ≤ s.dlen.toNat ∧ s.dinByte 0 = 0x0D
    · exact ⟨_, _, execRspPair_of_accepted hacc, execRspPair_of_accepted hacc, by constructor <;> rfl, rfl⟩
    · by_cases hrej : 1 ≤ s.dlen.toNat ∧ s.dinByte 0 = 0x0E
      · exact ⟨_, _, execRspPair_of_rejected hrej, execRspPair_of_rejected hrej, by constructor <;> rfl, rfl⟩
      · exact ⟨_, _, execRspPair_of_violation hacc hrej, execRspPair_of_violation hacc hrej, by constructor <;> rfl, rfl⟩
  case rspReconf => exact ⟨_, _, exec_rspReconf _, exec_rspReconf _, by constructor <;> rfl, rfl⟩
  all_goals exact ⟨_, _, rfl, rfl, by constructor <;> rfl, rfl⟩

/-! ## From the start of a command to its completion (R92, R93) -/

/-- R35: a line that is no reset, executed while a command runs, leaves what the command reads, and one environment step
fewer to go. -/
theorem State.line_agree {s : State} (hb : s.busy = true) {ln : Line} (hr : ln ≠ .reset) :
    s.Agree (s.tick.hostLine ln) ∧ (s.tick.hostLine ln).pace.pending = s.pace.pending - 1 ∧
      (s.tick.hostLine ln).host.script = s.host.script := by
  obtain ⟨hagree, hpace, hscript⟩ := State.hostLine_agree (s := s.tick) hb hr
  exact ⟨s.tick_agree.trans hagree, by rw [hpace]; rfl, hscript⟩

/-- R93: a step of the run that is no completion leaves no reset before the completion. -/
theorem State.NoResetFirst.after_step {s t : State} (h : s.NoResetFirst) (hstep : step s = .next t)
    (hp : t.pace.pending < s.pace.pending) : t.NoResetFirst := fun n hn u hu =>
  h (n + 1) (by omega) u ((run_succ n hstep).trans hu)

/-- R92, R93: the run reaches the completing step within the latency, and what the command reads stays as it is. -/
theorem run_to_engineTurn {k : Nat} {s : State} (hk : s.pace.pending = k) (hb : s.busy = true) (hr : s.NoResetFirst) :
    ∃ n ≤ k, ∃ u, Host.Core.run Sys2Proof.core n s = .next u ∧ s.Agree u ∧ u.engineTurn = true := by
  induction k generalizing s with
  | zero => exact ⟨0, le_rfl, s, rfl, .refl s, engineTurn_iff.mpr ⟨hb, .inl hk⟩⟩
  | succ k ih =>
    cases hl : s.host.current with
    | none => exact ⟨0, by omega, s, rfl, .refl s, engineTurn_iff.mpr ⟨hb, .inr hl⟩⟩
    | some ln =>
      have hturn : s.engineTurn = false := by simp [engineTurn_of_line hl, hk]
      have hstep := step_line hturn hl
      have hreset : ln ≠ .reset := by
        rintro rfl
        exact hr 0 (by omega) s rfl hl
      obtain ⟨hagree, hpending, -⟩ := State.line_agree hb hreset
      obtain ⟨n, hn, u, hrun, hu, hue⟩ :=
        ih (by omega) (hagree.busy.trans hb) (hr.after_step hstep (by omega))
      exact ⟨n + 1, by omega, u, (run_succ n hstep).trans hrun, hagree.trans hu, hue⟩

/-- Settles O5: the engine's turn is a completion (`exec_next`), the environment's a line or nothing. -/
theorem everyStepGoesOn : Obligations.EveryStepGoesOn := by
  unfold Obligations.EveryStepGoesOn
  intro s
  cases he : s.engineTurn with
  | true => simpa only [step_engine he] using exec_next _ s
  | false => exact ⟨_, step_host he⟩

/-- Settles O4: `withFetchWord` leaves a running command whose latency is over, so the step is the engine's. -/
theorem stepRunsTheLatchedCommand : Obligations.StepRunsTheLatchedCommand := by
  unfold Obligations.StepRunsTheLatchedCommand
  refine ⟨fun s he => step_engine he, fun s hb => step_host (engineTurn_of_idle hb), fun s nbits w => ?_⟩
  exact step_engine (engineTurn_iff.mpr ⟨rfl, .inl rfl⟩)

/-- Settles O11: neither the engine nor the host has a step (`step_idle`). -/
theorem idleEngineKeepsItsState : Obligations.IdleEngineKeepsItsState := by
  unfold Obligations.IdleEngineKeepsItsState
  exact fun s hb hl => step_idle (engineTurn_of_idle hb) hl

/-- Settles O6: the run to the completing step (`run_to_engineTurn`), and then the completion of the latched command. -/
theorem startedCommandCompletes : Obligations.StartedCommandCompletes := by
  unfold Obligations.StartedCommandCompletes
  intro s hb hr
  obtain ⟨n, hn, u, hrun, hagree, hturn⟩ := run_to_engineTurn rfl hb hr
  obtain ⟨t, ht⟩ := exec_next (decodeOp s.op) u
  have hstep : step u = exec (decodeOp s.op) u := hagree.op ▸ step_engine hturn
  obtain ⟨hbusy, hdone⟩ := exec_completes ht
  exact ⟨n, hn, u, t, hrun, hagree.busy.trans hb, hstep, hstep.trans ht, hbusy, hdone⟩

/-- Settles O7: a completion and a reset end the run, and every other line leaves an agreeing state (`line_agree`). -/
theorem runningEngineKeepsItsRegisters : Obligations.RunningEngineKeepsItsRegisters := by
  unfold Obligations.RunningEngineKeepsItsRegisters
  intro s t hb hstep ht
  suffices hagree : s.Agree t from
    ⟨fun r k hs hc => hagree.regByte r k hs hc, fun a => by rw [hagree.mem], hagree.ecode, hagree.resp⟩
  rcases step_cases hstep with ⟨-, hexec⟩ | ⟨-, -, rfl⟩ | ⟨-, ln, -, rfl⟩
  · simp [(exec_completes hexec).1] at ht
  · exact .refl _
  · refine (State.line_agree hb ?_).1
    rintro rfl
    simp [State.hostLine_reset_busy] at ht

/-- Settles O8: the state before the completing step agrees with the one at the earlier moment (`run_to_engineTurn`), and
agreeing states have the same completion (`exec_agree`). -/
theorem resultIsOfTheOperandsAtTheStart : Obligations.ResultIsOfTheOperandsAtTheStart := by
  unfold Obligations.ResultIsOfTheOperandsAtTheStart
  intro s hb hr
  obtain ⟨n, hn, u, hrun, hagree, hturn⟩ := run_to_engineTurn rfl hb hr
  obtain ⟨t₀, t, ht₀, ht, hres, herr⟩ := exec_agree (decodeOp s.op) hagree
  have hstep : step u = .next t := (step_engine hturn).trans (hagree.op ▸ ht)
  exact ⟨n, hn, u, t, t₀, hrun, hstep, ht₀, (exec_completes ht).1, hagree.regByte, hres.regByte, herr, hres.ecode,
    hres.resp⟩

end Sys2Proof.Machine

/-! PROOFS. One host beside one engine: the reset line (70_reset_and_hazards.md R112), the race of program P6
(95_test_vectors.md; R35, R92), and the polling loop `WAIT` (R48, R93). -/

namespace Sys2Proof.Machine

/-! ## A reset line (R112) -/

/-- R27: the host and the latencies show in no byte of the window. -/
theorem State.withAgents_readByte (s : State) (p : Pace) (a : HostAgent) (o : Nat) :
    { s with pace := p, host := a }.readByte o = s.readByte o := by
  unfold State.readByte
  split
  · rename_i r i _
    cases r <;> rfl
  · rfl

/-- Settles O13: the step is the reset line (`step_line`), and the state after it shows what `State.reset` shows. -/
theorem resetAbandonsTheRunningCommand : Obligations.ResetAbandonsTheRunningCommand := by
  unfold Obligations.ResetAbandonsTheRunningCommand
  intro s he hl
  exact ⟨_, step_line he hl, rfl, engineTurn_of_idle rfl,
    fun o _ => (State.withAgents_readByte State.reset _ _ o).trans (State.reset_readByte o), rfl, fun _ => rfl⟩

/-! ## Program P6: `MAC` is started and `DLEN` written at once (R35, R92) -/

/-- R90: the state after the line that starts `MAC`. -/
def State.macStarted (s : State) : State :=
  { { s.tick with op := 0x05 }.startCommand with host := (s.host.record .ok).goto (s.host.line + 1) }

theorem step_startMac {s : State} (hb : s.busy = false) (hl : s.host.current = some (wr8 0x000 0x05)) :
    step s = .next s.macStarted := by
  have hwrite : s.tick.hostWrite 0x000 1 ((0x05 : Byte).setWidth 32) = ({ s.tick with op := 0x05 }.startCommand, .ok) :=
    State.hostWrite_cmd (s := s.tick) _ hb (.inl rfl)
  rw [step_line (engineTurn_of_idle hb) hl]
  simp only [wr8, State.hostLine, State.hostWriteLine, HostAgent.value, hwrite]
  rfl

/-- R35: the write of `DLEN` while a command runs. -/
theorem step_dlenDropped {s : State} (hb : s.busy = true) (hp : s.pace.pending ≠ 0)
    (hl : s.host.current = some (wr8 0x012 0x00)) :
    step s = .next { s.tick with ovr := true, host := (s.host.record .ok).goto (s.host.line + 1) } := by
  have hwrite : s.tick.hostWrite 0x012 1 ((0x00 : Byte).setWidth 32) = ({ s.tick with ovr := true }, .ok) :=
    State.hostWrite_of_dropped _ (by decide) (by decide) hb (by decide)
  rw [step_line (by simp [engineTurn_of_line hl, hp]) hl]
  simp only [wr8, State.hostLine, State.hostWriteLine, HostAgent.value, hwrite]
  rfl

/-- R33: the write of `DLEN` while no command runs. -/
theorem step_dlenStored {s : State} (hb : s.busy = false) (hl : s.host.current = some (wr8 0x012 0x00)) :
    step s = .next { s.tick with dlen := 0x00, host := (s.host.record .ok).goto (s.host.line + 1) } := by
  have hlane : s.tick.writeLanes 0x012 ((0x00 : Byte).setWidth 32) 1 = { s.tick with dlen := 0x00 } :=
    s.tick.writeByte_offset .dlen (k := 0) (by decide) 0x00
  have hwrite : s.tick.hostWrite 0x012 1 ((0x00 : Byte).setWidth 32) = ({ s.tick with dlen := 0x00 }, .ok) :=
    (State.hostWrite_of_performed (s := s.tick) _ (by decide) (by decide) (by decide) (.inl hb)).trans
      (congrArg (·, BusAnswer.ok) hlane)
  rw [step_line (engineTurn_of_idle hb) hl]
  simp only [wr8, State.hostLine, State.hostWriteLine, HostAgent.value, hwrite]
  rfl

/-- R78: the state after the completion of `MAC`. -/
def State.macCompleted (s : State) : State :=
  ({ s with mac := checksum s.key s.nonce s.input }.setOut (checksum s.key s.nonce s.input).toList).succeed

theorem step_macCompletes {s : State} (hop : s.op = 0x05) (he : s.engineTurn = true) :
    step s = .next s.macCompleted :=
  (step_engine he).trans ((congrArg (fun op => exec (decodeOp op) s) hop).trans (exec_mac s))

/-- Settles O9: with latency 1 the steps are the start, the dropped write and the completion; with latency 0 the start,
the completion and the stored write. -/
theorem writeDuringACommandHasBothRuns : Obligations.WriteDuringACommandHasBothRuns := by
  unfold Obligations.WriteDuringACommandHasBothRuns
  intro s hb hovr hscript hline
  have hstart := step_startMac hb (by simp [HostAgent.current, hscript, hline])
  have hnext (n : Nat) (hn : n = 1) : s.host.script[n]? = some (wr8 0x012 0x00) := by simp [hscript, hn]
  refine ⟨fun hlat => ?_, fun hlat => ?_⟩
  · have hpending : s.macStarted.pace.pending = 1 := congrArg (List.headD · _) hlat
    have hdrop := step_dlenDropped (s := s.macStarted) rfl (by omega) (hnext _ (congrArg (· + 1) hline))
    have hmac := step_macCompletes (s := { s.macStarted.tick with
      ovr := true, host := (s.macStarted.host.record .ok).goto (s.macStarted.host.line + 1) }) rfl
      (engineTurn_iff.mpr ⟨rfl, .inl (by simp [hpending])⟩)
    exact ⟨_, (run_succ 2 hstart).trans ((run_succ 1 hdrop).trans (run_succ 0 hmac)), rfl, rfl, rfl, rfl⟩
  · have hpending : s.macStarted.pace.pending = 0 := congrArg (List.headD · _) hlat
    have hmac := step_macCompletes (s := s.macStarted) rfl (engineTurn_iff.mpr ⟨rfl, .inl hpending⟩)
    have hstore := step_dlenStored (s := s.macStarted.macCompleted) rfl (hnext _ (congrArg (· + 1) hline))
    exact ⟨_, (run_succ 2 hstart).trans ((run_succ 1 hmac).trans (run_succ 0 hstore)), rfl, rfl, hovr, rfl⟩

/-! ## The polling loop (R48, R93) -/

/-- R48: the loop `WAIT` stands at line `p` of the script. -/
structure State.Polls (s : State) (t p : Nat) : Prop where
  read   : s.host.script[p]? = some (rd32 0x004 t)
  branch : s.host.script[p + 1]? = some (.bit1 t 0 p)

/-- The host gets past the loop within `m` steps, and then no command runs. -/
def State.PassesLoop (s : State) (p m : Nat) : Prop :=
  ∃ n ≤ m, ∃ v, Host.Core.run Sys2Proof.core n s = .next v ∧ v.host.line = p + 2 ∧ v.busy = false

theorem State.PassesLoop.of_step {s u : State} {p m : Nat} (hstep : step s = .next u) (h : u.PassesLoop p m) :
    s.PassesLoop p (m + 1) := by
  obtain ⟨n, hn, v, hrun, hv⟩ := h
  exact ⟨n + 1, by omega, v, (run_succ n hstep).trans hrun, hv⟩

/-- R32: bit 0 of a read of `STATUS` is `BUSY`. -/
theorem State.readLanes_status_busy (s : State) : (s.readLanes 0x004 4).getLsbD 0 = s.busy := by
  have hbyte : s.readByte 0x004 = s.statusLow := s.readByte_offset .status (i := 0) (by decide)
  rw [s.readLanes_getLsbD_of_lt_eight 0x004 (by decide) 3, hbyte, s.statusLow_eq_concat, BitVec.getLsbD_concat_zero]

section
variable {s : State} {t p : Nat}

/-- The line that reads `STATUS`. -/
theorem State.Polls.step_read (h : s.Polls t p) (hl : s.host.line = p) (he : s.engineTurn = false) :
    ∃ u, step s = .next u ∧ u.Polls t p ∧ u.host.line = p + 1 ∧ (u.host.temp t).getLsbD 0 = s.busy ∧
      u.busy = s.busy ∧ u.pace.pending = s.pace.pending - 1 := by
  have hline : s.host.current = some (rd32 0x004 t) := by rw [HostAgent.current, hl, h.read]
  refine ⟨_, step_line he hline, ⟨h.read, h.branch⟩, congrArg (· + 1) hl, ?_, rfl, rfl⟩
  have hread : s.tick.hostRead 0x004 4 = .data 4 (s.tick.readLanes 0x004 4) :=
    s.tick.hostRead_of_accepted (by decide) (by decide)
  have htemp : (s.tick.hostLine (rd32 0x004 t)).host.temp t = s.tick.readLanes 0x004 4 := by
    simp only [rd32, State.hostLine, State.hostReadLine, hread]
    exact HostAgent.temp_setTemp _ _ _
  rw [htemp, s.tick.readLanes_status_busy, State.tick_busy]

/-- The line that branches back while the bit read is 1. -/
theorem State.Polls.step_branch (h : s.Polls t p) (hl : s.host.line = p + 1) (he : s.engineTurn = false) :
    ∃ u, step s = .next u ∧ u.Polls t p ∧ u.host.line = (if (s.host.temp t).getLsbD 0 then p else p + 2) ∧
      u.busy = s.busy ∧ u.pace.pending = s.pace.pending - 1 := by
  have hline : s.host.current = some (.bit1 t 0 p) := by rw [HostAgent.current, hl, h.branch]
  refine ⟨_, step_line he hline, ⟨h.read, h.branch⟩, ?_, rfl, rfl⟩
  simp [State.hostLine, State.hostBranch, hl]

/-- R91: the completion, which the host does not see. -/
theorem State.Polls.step_complete (h : s.Polls t p) (hb : s.busy = true) (hp : s.pace.pending = 0) :
    ∃ u, step s = .next u ∧ u.Polls t p ∧ u.host = s.host ∧ u.busy = false := by
  obtain ⟨u, hu⟩ := exec_next (decodeOp s.op) s
  obtain ⟨-, -, hhost⟩ := exec_keeps_agents hu
  exact ⟨u, (step_engine (engineTurn_iff.mpr ⟨hb, .inl hp⟩)).trans hu, ⟨hhost ▸ h.read, hhost ▸ h.branch⟩, hhost,
    (exec_completes hu).1⟩

/-- With no command running the read gives 0 and the branch is not taken. -/
theorem State.Polls.passes_of_idle (h : s.Polls t p) (hl : s.host.line = p) (hb : s.busy = false) :
    s.PassesLoop p 2 := by
  obtain ⟨u, hu, hpolls, hline, hbit, hbusy, -⟩ := h.step_read hl (engineTurn_of_idle hb)
  obtain ⟨v, hv, -, hline', hbusy', -⟩ := hpolls.step_branch hline (engineTurn_of_idle (hbusy.trans hb))
  refine .of_step hu (.of_step hv ⟨0, le_rfl, v, rfl, ?_, hbusy'.trans (hbusy.trans hb)⟩)
  rwa [hbit, hb] at hline'

/-- Once round the loop takes two steps, so the completion finds the host at the read or at the branch. -/
theorem State.Polls.passes_of_busy {k : Nat} (h : s.Polls t p) (hl : s.host.line = p) (hb : s.busy = true)
    (hk : s.pace.pending = k) : s.PassesLoop p (k + 4) := by
  induction k using Nat.twoStepInduction generalizing s with
  | zero =>
    obtain ⟨u, hu, hpolls, hhost, hbusy⟩ := h.step_complete hb hk
    obtain ⟨n, hn, hv⟩ := hpolls.passes_of_idle (hhost ▸ hl) hbusy
    exact .of_step hu ⟨n, by omega, hv⟩
  | one =>
    have hl' : s.host.current = some (rd32 0x004 t) := by rw [HostAgent.current, hl, h.read]
    obtain ⟨u, hu, hpolls, hline, hbit, hbusy, hpending⟩ := h.step_read hl (by simp [engineTurn_of_line hl', hk])
    obtain ⟨v, hv, hpolls', hhost, hbusy'⟩ := hpolls.step_complete (hbusy.trans hb) (by omega)
    obtain ⟨w, hw, hpolls'', hline'', hbusy'', -⟩ := hpolls'.step_branch (hhost ▸ hline) (engineTurn_of_idle hbusy')
    have hback : w.host.line = p := by rwa [hhost, hbit, hb] at hline''
    exact .of_step hu (.of_step hv (.of_step hw (hpolls''.passes_of_idle hback (hbusy''.trans hbusy'))))
  | more k ih =>
    have hl' : s.host.current = some (rd32 0x004 t) := by rw [HostAgent.current, hl, h.read]
    obtain ⟨u, hu, hpolls, hline, hbit, hbusy, hpending⟩ := h.step_read hl (by simp [engineTurn_of_line hl', hk])
    have hlu : u.host.current = some (.bit1 t 0 p) := by rw [HostAgent.current, hline, hpolls.branch]
    have hturn : u.engineTurn = false := by
      rw [engineTurn_of_line hlu, hpending, hk]
      simp
    obtain ⟨v, hv, hpolls', hline', hbusy', hpending'⟩ := hpolls.step_branch hline hturn
    have hback : v.host.line = p := by rwa [hbit, hb] at hline'
    exact .of_step hu (.of_step hv (ih hpolls' hback (hbusy'.trans (hbusy.trans hb)) (by omega)))

end

/-- Settles O10: a running command by `Polls.passes_of_busy`, else `Polls.passes_of_idle`. -/
theorem pollingEndsWhenTheCommandCompletes : Obligations.PollingEndsWhenTheCommandCompletes := by
  unfold Obligations.PollingEndsWhenTheCommandCompletes
  intro s t p hl hread hbranch
  have hpolls : s.Polls t p := ⟨hread, hbranch⟩
  cases hb : s.busy with
  | true => exact hpolls.passes_of_busy hl hb rfl
  | false =>
    obtain ⟨n, hn, hv⟩ := hpolls.passes_of_idle hl hb
    exact ⟨n, by omega, hv⟩

end Sys2Proof.Machine

/-! PROOFS. The register window, byte by byte (20_memory.md R26, R30 to R33; 10_state.md R10, R11): which bits a read
gives, and what a read of a byte gives after a write. -/

namespace Sys2Proof.Machine

/-! ## The bits of a read (R30, R32) -/

/-- R30: bit `j` of a read is bit `j mod 8` of byte `j div 8`, and 0 above the bytes read. -/
theorem State.readLanes_getLsbD (s : State) (a n j : Nat) :
    (s.readLanes a n).getLsbD j = (decide (j < 32 ∧ j < 8 * n) && (s.readByte (a + j / 8)).getLsbD (j % 8)) := by
  induction n with
  | zero => simp [State.readLanes]
  | succ n ih =>
    rw [State.readLanes, BitVec.getLsbD_or, ih, BitVec.getLsbD_shiftLeft, BitVec.getLsbD_setWidth]
    rcases Nat.lt_or_ge j (8 * n) with hlow | hge
    · simp [hlow, show j < 8 * (n + 1) by omega]
    · rcases Nat.lt_or_ge j (8 * (n + 1)) with hlane | habove
      · have hdiv : j / 8 = n := by omega
        have hmod : j % 8 = j - 8 * n := by omega
        simp only [hdiv, hmod, hlane, Nat.not_lt.mpr hge]
        by_cases h32 : j < 32
        · simp [h32, show j - 8 * n < 32 by omega]
        · simp [h32]
      · have hzero : (s.readByte (a + n)).getLsbD (j - 8 * n) = false := BitVec.getLsbD_of_ge _ _ (by omega)
        simp [Nat.not_lt.mpr hge, Nat.not_lt.mpr habove, hzero]

/-- R30: lane `i` of a read is the byte at its offset. -/
theorem State.readLanes_lane (s : State) (a : Nat) {n i : Nat} (hi : i < n) (hn : n ≤ 4) :
    (s.readLanes a n).extractLsb' (8 * i) 8 = s.readByte (a + i) := by
  refine BitVec.eq_of_getLsbD_eq fun j hj => ?_
  have hdiv : (8 * i + j) / 8 = i := by omega
  have hmod : (8 * i + j) % 8 = j := by omega
  rw [BitVec.getLsbD_extractLsb', s.readLanes_getLsbD, hdiv, hmod]
  simp [hj, show 8 * i + j < 32 ∧ 8 * i + j < 8 * n by omega]

theorem State.readLanes_one (s : State) (a : Nat) : s.readLanes a 1 = (s.readByte a).setWidth 32 := by
  simp [State.readLanes]

/-! ## `STATUS` and `CTRL` (R10, R11) -/

theorem State.readByte_status (s : State) {i : Nat} (hi : i < 4) : s.readByte (0x004 + i) = s.statusByte i :=
  s.readByte_offset .status hi

theorem State.readByte_ctrl (s : State) {i : Nat} (hi : i < 4) : s.readByte (0x008 + i) = s.ctrlByte i :=
  s.readByte_offset .ctrl hi

/-- R10: bits 3:0 of `STATUS` are the flags. -/
theorem State.readLanes_status_flags (s : State) :
    (s.readLanes 0x004 4).getLsbD 0 = s.busy ∧ (s.readLanes 0x004 4).getLsbD 1 = s.done ∧
      (s.readLanes 0x004 4).getLsbD 2 = s.err ∧ (s.readLanes 0x004 4).getLsbD 3 = s.ovr := by
  have hbit {i : Nat} (hi : i < 8) : (s.readLanes 0x004 4).getLsbD i = s.statusLow.getLsbD i := by
    rw [s.readLanes_getLsbD_of_lt_eight 0x004 hi 3]
    exact congrArg (·.getLsbD i) (s.readByte_status (i := 0) (by decide))
  rw [hbit (by decide), hbit (by decide), hbit (by decide), hbit (by decide), s.statusLow_eq_concat]
  simp only [BitVec.getLsbD_concat]
  exact ⟨rfl, rfl, rfl, rfl⟩

/-- R10: from bit 8 on `STATUS` holds `RESP`, with zeros above it. -/
theorem State.readLanes_status_getLsbD (s : State) (i : Nat) :
    (s.readLanes 0x004 4).getLsbD (8 + i) = s.resp.code.getLsbD i := by
  rw [s.readLanes_getLsbD]
  rcases Nat.lt_or_ge i 24 with hi | hi
  · rw [s.readByte_status (by omega)]
    rcases Nat.lt_or_ge i 8 with hlane | hlane
    · have hdiv : (8 + i) / 8 = 1 := by omega
      have hmod : (8 + i) % 8 = i := by omega
      simp [hdiv, hmod, State.statusByte, hlane]
      omega
    · have hzero : s.resp.code.getLsbD i = false := BitVec.getLsbD_of_ge _ _ (by omega)
      have hbyte : s.statusByte ((8 + i) / 8) = 0 := (if_neg (by omega)).trans (if_neg (by omega))
      rw [hbyte, hzero]
      simp
  · have hzero : s.resp.code.getLsbD i = false := BitVec.getLsbD_of_ge _ _ (by omega)
    simp [hzero, show ¬ (8 + i < 32) by omega]

/-- R11: `CTRL` is `IE` with zeros above it. -/
theorem State.readLanes_ctrl_getLsbD (s : State) (i : Nat) :
    (s.readLanes 0x008 4).getLsbD i = (decide (i = 0) && s.ie) := by
  rw [s.readLanes_getLsbD]
  rcases Nat.lt_or_ge i 32 with hi | hi
  · rw [s.readByte_ctrl (by omega)]
    rcases Nat.lt_or_ge i 8 with hlane | hlane
    · have hdiv : i / 8 = 0 := by omega
      have hmod : i % 8 = i := by omega
      cases hie : s.ie <;> simp [hdiv, hmod, State.ctrlByte, hi, hie]
    · simp [State.ctrlByte, show i / 8 ≠ 0 by omega, show i ≠ 0 by omega]
  · simp [show ¬ i < 32 by omega, show i ≠ 0 by omega]

/-! ## Reading a byte after the store of one (R33) -/

/-- R33: the registers whose every byte the host can write while no command runs, but for `CMD`. -/
def dataRegs : List Reg := [.nlen, .wlen, .dlen, .dest, .opc, .key, .name, .pass, .sr, .rr, .nonce, .addr, .seq, .din]

/-- R5, R33: a byte string after one byte of it is set. -/
theorem setIfInBounds_getD {n : Nat} (x : Bytes n) (k : Nat) (b : Byte) (j : Nat) :
    (x.setIfInBounds k b)[j]?.getD 0 = if k = j ∧ k < n then b else x[j]?.getD 0 := by
  by_cases hj : k = j
  · subst hj
    by_cases hk : k < n <;> simp [hk]
  · simp [hj]

/-- R33: the byte stored is the byte read. -/
theorem State.writeReg_regByte_same (s : State) {r : Reg} (hr : r ∈ dataRegs) {k : Nat} (hk : k < r.size) (b : Byte) :
    (s.writeReg r k b).regByte r k = b := by
  cases r
  case cmd | status | ctrl | olen | mac | out => simp [dataRegs] at hr
  case nlen | wlen | dlen | dest | opc => exact if_pos (Nat.lt_one_iff.mp hk)
  case din => exact (if_pos hk).trans ((Memory.read_write _ _ _ _).trans (if_pos rfl))
  all_goals exact (setIfInBounds_getD _ _ _ _).trans (if_pos ⟨rfl, hk⟩)

/-- R33: no other byte of the register changes. -/
theorem State.writeReg_regByte_of_index_ne (s : State) (r : Reg) {k j : Nat} (hk : k < r.size) (hj : j ≠ k) (b : Byte) :
    (s.writeReg r k b).regByte r j = s.regByte r j := by
  cases r
  case olen | mac | out => rfl
  case cmd | nlen | wlen | dlen | dest | opc =>
    have hj0 : j ≠ 0 := fun h => hj (h.trans (Nat.lt_one_iff.mp hk).symm)
    exact (if_neg hj0).trans (if_neg hj0).symm
  case status =>
    simp only [State.writeReg]
    split
    · rename_i hk0
      simp [State.regByte, State.statusByte, show j ≠ 0 by omega]
    · rfl
  case ctrl =>
    simp only [State.writeReg]
    split
    · simp [State.regByte, State.ctrlByte, show j ≠ 0 by omega]
    · rfl
  case din =>
    simp [State.regByte, State.writeReg, State.dinByte, hj]
  all_goals exact (setIfInBounds_getD _ _ _ _).trans (if_neg fun h => hj h.1.symm)

/-- R33: no byte of another register changes. -/
theorem State.writeReg_regByte_of_reg_ne (s : State) {r q : Reg} (h : q ≠ r) {k : Nat} (hk : k < r.size) (j : Nat)
    (b : Byte) : (s.writeReg r k b).regByte q j = s.regByte q j := by
  cases r
  case olen | mac | out => rfl
  case din =>
    cases q
    case din => exact absurd rfl h
    case out =>
      have hne : Reg.out.offset + j ≠ Reg.din.offset + k := by simp only [Reg.offset, Reg.size] at hk ⊢; omega
      simp [State.regByte, State.writeReg, State.outByte, hne]
    all_goals rfl
  case status | ctrl =>
    simp only [State.writeReg]
    split
    · cases q <;> first | rfl | exact absurd rfl h
    · rfl
  all_goals cases q <;> first | rfl | exact absurd rfl h

/-- R33: the store of a byte changes no other byte of the window. -/
theorem State.writeByte_readByte_of_ne (s : State) {o o' : Nat} (h : o' ≠ o) (b : Byte) :
    (s.writeByte o b).readByte o' = s.readByte o' := by
  cases hw : Reg.at? o with
  | none => simp [State.writeByte, hw]
  | some p =>
    obtain ⟨r, k⟩ := p
    obtain ⟨rfl, hk⟩ := Reg.at?_some hw
    rw [State.writeByte_offset s r hk]
    cases hr : Reg.at? o' with
    | none => rw [State.readByte_reserved _ hr, State.readByte_reserved _ hr]
    | some p' =>
      obtain ⟨q, j⟩ := p'
      obtain ⟨rfl, hj⟩ := Reg.at?_some hr
      rw [State.readByte_offset _ q hj, State.readByte_offset _ q hj]
      by_cases hq : q = r
      · subst hq
        exact s.writeReg_regByte_of_index_ne q hk (fun e => h (congrArg _ e)) b
      · exact s.writeReg_regByte_of_reg_ne hq hk j b

theorem State.writeByte_readByte_same (s : State) {r : Reg} (hr : r ∈ dataRegs) {k : Nat} (hk : k < r.size) (b : Byte) :
    (s.writeByte (r.offset + k) b).readByte (r.offset + k) = b := by
  rw [s.writeByte_offset r hk, State.readByte_offset _ r hk, s.writeReg_regByte_same hr hk]

/-- R33: a write changes no byte outside the bytes it covers. -/
theorem State.writeLanes_readByte_outside (s : State) (a : Nat) (v : Word32) {n o : Nat} (h : o < a ∨ a + n ≤ o) :
    (s.writeLanes a v n).readByte o = s.readByte o := by
  induction n with
  | zero => rfl
  | succ n ih => rw [State.writeLanes, State.writeByte_readByte_of_ne _ (by omega), ih (by omega)]

/-- R30, R33: lane `i` of a write is stored at its offset. -/
theorem State.writeLanes_readByte_lane (s : State) {a : Nat} (v : Word32) {n i k : Nat} {r : Reg} (hr : r ∈ dataRegs)
    (hi : i < n) (ho : a + i = r.offset + k) (hk : k < r.size) :
    (s.writeLanes a v n).readByte (a + i) = v.extractLsb' (8 * i) 8 := by
  induction n with
  | zero => omega
  | succ n ih =>
    rw [State.writeLanes]
    rcases Nat.lt_succ_iff_lt_or_eq.mp hi with hlt | rfl
    · rw [State.writeByte_readByte_of_ne _ (by omega), ih hlt]
    · rw [ho, State.writeByte_readByte_same _ hr hk]

/-! ## The statements -/

/-- Settles O15: both accesses are answered before the engine is asked. -/
theorem beyondTheWindowNothingIsReached : Obligations.BeyondTheWindowNothingIsReached := by
  unfold Obligations.BeyondTheWindowNothingIsReached
  exact fun s a n v ha => ⟨if_pos ha, if_pos ha⟩

/-- Settles O16: each lane of the 32-bit read by `readLanes_lane`; the 8-bit read has one lane. -/
theorem readsAreLittleEndianLanes : Obligations.ReadsAreLittleEndianLanes := by
  unfold Obligations.ReadsAreLittleEndianLanes
  refine ⟨fun s a ha h4 => ⟨_, s.hostRead_of_accepted ha ((accessOk_iff a 4).mpr (.inr ⟨rfl, h4⟩)),
    fun i hi => s.readLanes_lane a hi le_rfl⟩, fun s a ha => ?_⟩
  rw [s.hostRead_of_accepted ha ((accessOk_iff a 1).mpr (.inl rfl)), s.readLanes_one]

/-- Settles O17: the flags and `ECODE` are byte 0 of `STATUS`, `RESP` begins at bit 8 with zeros above it
(`readLanes_status_getLsbD`), and `CTRL` is `IE` alone (`readLanes_ctrl_getLsbD`). -/
theorem statusWordHasTheSpecsFields : Obligations.StatusWordHasTheSpecsFields := by
  unfold Obligations.StatusWordHasTheSpecsFields
  refine ⟨fun s => ⟨_, s.hostRead_of_accepted (by decide) (by decide), ?status⟩,
    fun s => ⟨_, s.hostRead_of_accepted (by decide) (by decide), ?ie, ?ctrlZeros⟩⟩
  case status =>
    obtain ⟨hbusy, hdone, herr, hovr⟩ := s.readLanes_status_flags
    refine ⟨hbusy, hdone, herr, hovr, ?ecode, ?resp, ?zeros⟩
    case ecode =>
      rw [s.readLanes_status_ecode]
      cases s.ecode <;> rfl
    case resp =>
      have hcode : (s.readLanes 0x004 4).extractLsb' 8 2 = s.resp.code :=
        BitVec.eq_of_getLsbD_eq fun i hi => by
          rw [BitVec.getLsbD_extractLsb', s.readLanes_status_getLsbD]
          simp [hi]
      rw [hcode]
      cases s.resp <;> rfl
    case zeros =>
      refine BitVec.eq_of_getLsbD_eq fun i hi => ?_
      rw [BitVec.getLsbD_extractLsb', show 10 + i = 8 + (2 + i) by omega, s.readLanes_status_getLsbD,
        BitVec.getLsbD_of_ge _ _ (by omega)]
      simp
  case ie => simpa using s.readLanes_ctrl_getLsbD 0
  case ctrlZeros =>
    refine BitVec.eq_of_getLsbD_eq fun i hi => ?_
    rw [BitVec.getLsbD_extractLsb', s.readLanes_ctrl_getLsbD]
    simp

/-- Settles O18: a read line changes the host alone. -/
theorem readsHaveNoSideEffect : Obligations.ReadsHaveNoSideEffect := by
  unfold Obligations.ReadsHaveNoSideEffect
  refine fun s off width t => ⟨fun r k => ?_, fun _ => rfl, rfl⟩
  cases r <;> rfl

/-- Settles O19: the write is the store of its lanes (`hostWrite_of_performed`), each of which is read back where it was
stored and changes no byte elsewhere. -/
theorem writeStoresItsBytesAndNoOthers : Obligations.WriteStoresItsBytesAndNoOthers := by
  unfold Obligations.WriteStoresItsBytesAndNoOthers
  intro s a n v hb ha h0 hn
  rw [State.hostWrite_of_performed v ha ((accessOk_iff a n).mpr hn) h0 (.inl hb)]
  exact ⟨rfl, fun i hi r k ho hk hr => s.writeLanes_readByte_lane v hr hi ho hk,
    fun o ho => s.writeLanes_readByte_outside a v ho⟩

/-- Settles O21: the two writes are `hostWrite_status` and `hostWrite_ctrl`; the low byte has the low bits of the value. -/
theorem statusAndControlWrites : Obligations.StatusAndControlWrites := by
  unfold Obligations.StatusAndControlWrites
  intro s n v hn
  refine ⟨?_, s.hostWrite_ctrl v hn⟩
  have hbit {i : Nat} (hi : i < 8) : (v.extractLsb' 0 8).getLsbD i = v.getLsbD i := by simp [hi]
  rw [s.hostWrite_status v hn, State.clearStatus, hbit (by decide), hbit (by decide), hbit (by decide)]

end Sys2Proof.Machine

/-! PROOFS. The commands' frames and operands (10_state.md section 6, 30_encoding.md R46, 46_control.md R97): which
registers a command writes, and on which bytes its results depend. -/

namespace Sys2Proof.Machine

/-! ## The frame of every command (10_state.md section 6) -/

/-- The completion of command `i` writes only what the table gives it; `RESP` changes only by three commands. -/
def State.Framed (s : State) (i : Instr) : Prop :=
  ∃ t, exec i s = .next t ∧ s.Keeps t i.writes ∧ (i ≠ .rspPair → i ≠ .rspReconf → i ≠ .zeroize → t.resp = s.resp)

/-- R94: a command that puts a result in `OUT`, after writing only registers of its own. -/
theorem State.Framed.of_setOut {s u : State} {i : Instr} {r : List Byte} (he : exec i s = .next (u.setOut r).succeed)
    (hu : s.Keeps u i.writes) (hresp : u.resp = s.resp) (ho : Reg.out ∈ i.writes) (hl : Reg.olen ∈ i.writes) :
    s.Framed i :=
  ⟨_, he, s.setOut_keeps r hu ho hl, fun _ _ _ => hresp⟩

/-- R99: a command that fails. -/
theorem State.Framed.of_failWith {s : State} {i : Instr} {e : ErrorCode} (he : exec i s = .next (s.failWith e)) :
    s.Framed i :=
  ⟨_, he, s.failWith_keeps e _, fun _ _ _ => rfl⟩

theorem exec_framed (i : Instr) (s : State) : s.Framed i := by
  cases i
  case encblk =>
    by_cases hlen : s.dlen = 16
    · exact .of_setOut (execEncblk_of_dlen_eq hlen) (s.keeps_refl _) rfl (by decide) (by decide)
    · exact .of_failWith (execEncblk_of_dlen_ne hlen)
  case cmdpkt =>
    rcases Nat.lt_or_ge 10 s.dlen.toNat with hlt | hle
    · exact .of_failWith (exec_cmdpkt_of_lt hlt)
    · have hkeep : s.Keeps { s with nonce := s.commandNonce, mac := s.commandChecksum } (Instr.writes .cmdpkt) :=
        (s.withNonce_keeps s.commandNonce (by decide)).trans (State.withMac_keeps _ s.commandChecksum (by decide))
      exact .of_setOut (exec_cmdpkt_of_le hle) hkeep rfl (by decide) (by decide)
  case keymat => exact .of_setOut (exec_keymat s) (s.keeps_refl _) rfl (by decide) (by decide)
  case kdf => exact .of_setOut (exec_kdf s) (s.withKey_keeps _ (by decide)) rfl (by decide) (by decide)
  case pair => exact .of_setOut (exec_pair s) (s.keeps_refl _) rfl (by decide) (by decide)
  case mac => exact .of_setOut (exec_mac s) (s.withMac_keeps _ (by decide)) rfl (by decide) (by decide)
  case ctr => exact .of_setOut (exec_ctr s) (s.keeps_refl _) rfl (by decide) (by decide)
  case reconfName =>
    exact .of_setOut (exec_reconf s (p := 0x04) (by simp)) (s.keeps_refl _) rfl (by decide) (by decide)
  case reconfPass =>
    exact .of_setOut (exec_reconf s (p := 0x05) (by simp)) (s.keeps_refl _) rfl (by decide) (by decide)
  case reconfLtk =>
    exact .of_setOut (exec_reconf s (p := 0x06) (by simp)) (s.keeps_refl _) rfl (by decide) (by decide)
  case rspPair =>
    obtain ⟨t, ht, -, hkeep, -⟩ := rspPairClassifiesTheResponse s
    exact ⟨t, ht, hkeep, fun h => absurd rfl h⟩
  case rspReconf => exact ⟨_, exec_rspReconf s, (s.keeps_refl _).classified _, fun _ h => absurd rfl h⟩
  case zeroize => exact ⟨_, exec_zeroize s, s.zeroed_keeps, fun _ _ h => absurd rfl h⟩
  case reserved00 | reserved0D | reserved0E | reserved10 | reserved20 | reserved40 | reserved80 =>
    exact .of_failWith (e := .badcmd) rfl

/-! ## Operands (R46) -/

/-- The two states agree on every byte the command reads, the lengths being those of the first. -/
def State.SameOperands (i : Instr) (s s' : State) : Prop :=
  ∀ r k, i.readsByte s.nlen.toNat s.wlen.toNat s.dlen.toNat r k = true → s.regByte r k = s'.regByte r k

/-- R46: what two completions of one command on the same operands have in common. -/
def SameResults (i : Instr) (t t' : State) : Prop :=
  t.ecode = t'.ecode ∧ (i = .rspPair ∨ i = .rspReconf → t.resp = t'.resp) ∧
    (t.ecode = .none → (i = .rspPair → t.resp = .accepted) →
      ∀ r ∈ i.writes, ∀ k, t.regByte r k = t'.regByte r k)

section
variable {s s' : State}

/-- R8: a byte string is the bytes of its register. -/
theorem bytes_eq_of_getD {n : Nat} {x y : Bytes n} (h : ∀ k : Nat, x[k]?.getD 0 = y[k]?.getD 0) : x = y := by
  ext1 k hk
  have hbyte : x[k]?.getD 0 = y[k]?.getD 0 := h k
  simpa [hk] using hbyte

/-- R22: a byte of `DIN` below `DLEN`. -/
theorem State.dinByte_eq_of_regByte {k : Nat} (hk : k < s.dlen.toNat) (h : s.regByte .din k = s'.regByte .din k) :
    s.dinByte k = s'.dinByte k := by
  have h256 : k < Reg.din.size := hk.trans s.dlen.isLt
  simpa only [State.regByte, if_pos h256] using h

theorem State.input_congr (hd : s.dlen = s'.dlen) (h : ∀ k < s.dlen.toNat, s.dinByte k = s'.dinByte k) :
    s.input = s'.input := by
  rw [State.input, State.input, ← hd]
  exact List.map_congr_left fun k hk => h k (List.mem_range.mp hk)

/-- R62, R68: only the bytes below `DLEN` enter the padded value. -/
theorem State.inputValue_congr (hd : s.dlen = s'.dlen)
    (h : ∀ k < s.dlen.toNat, k < 16 → s.dinByte k = s'.dinByte k) : s.inputValue = s'.inputValue := by
  rw [s.inputValue_eq, s'.inputValue_eq, ← hd]
  ext1 k hk
  simp only [Vector.getElem_ofFn]
  split
  case isTrue hlt => exact h k hlt hk
  case isFalse => rfl

/-- R61: with `DLEN` 16 the block is the padded value. -/
theorem State.inputBlock_congr (hd : s.dlen.toNat = 16)
    (h : ∀ k < s.dlen.toNat, k < 16 → s.dinByte k = s'.dinByte k) : s.inputBlock = s'.inputBlock := by
  ext1 k hk
  simpa [State.inputBlock] using h k (hd ▸ hk) hk

/-- R62, R63: only the bytes below the credential lengths enter the key material. -/
theorem State.keyMaterial_congr (hn : s.nlen = s'.nlen) (hw : s.wlen = s'.wlen)
    (hname : ∀ k < s.nlen.toNat, s.regByte .name k = s'.regByte .name k)
    (hpass : ∀ k < s.wlen.toNat, s.regByte .pass k = s'.regByte .pass k) : s.keyMaterial = s'.keyMaterial := by
  ext1 k hk
  rw [s.keyMaterial_getElem hk, s'.keyMaterial_getElem hk, ← hn, ← hw]
  congr 1
  · exact ite_congr rfl (fun hlt => hname k hlt) fun _ => rfl
  · exact ite_congr rfl (fun hlt => hpass k hlt) fun _ => rfl

/-- R46: the key material, for each of the three commands that read the credentials. -/
theorem State.SameOperands.keyMaterial {i : Instr} (h : s.SameOperands i s') (hi : i = .keymat ∨ i = .kdf ∨ i = .pair) :
    s.keyMaterial = s'.keyMaterial := by
  obtain rfl | rfl | rfl := hi
  all_goals
    exact State.keyMaterial_congr (h .nlen 0 rfl) (h .wlen 0 rfl)
      (fun k hk => h .name k (by simp [Instr.readsByte, hk])) (fun k hk => h .pass k (by simp [Instr.readsByte, hk]))

/-- R46: the payload, for each of the commands that read `DIN[0..DLEN-1]` whole. -/
theorem State.SameOperands.din {i : Instr} (h : s.SameOperands i s')
    (hi : i = .mac ∨ i = .ctr ∨ i = .cmdpkt ∨ i = .rspPair ∨ i = .rspReconf) :
    s.dlen = s'.dlen ∧ ∀ k < s.dlen.toNat, s.dinByte k = s'.dinByte k := by
  obtain rfl | rfl | rfl | rfl | rfl := hi
  all_goals
    exact ⟨h .dlen 0 rfl, fun k hk => State.dinByte_eq_of_regByte hk (h .din k (by simp [Instr.readsByte, hk]))⟩

/-- R46: the key and the first bytes of `DIN`, for each of the commands that encrypt one block. -/
theorem State.SameOperands.block {i : Instr} (h : s.SameOperands i s')
    (hi : i = .encblk ∨ i = .reconfName ∨ i = .reconfPass ∨ i = .reconfLtk) :
    s.key = s'.key ∧ s.dlen = s'.dlen ∧ ∀ k < s.dlen.toNat, k < 16 → s.dinByte k = s'.dinByte k := by
  obtain rfl | rfl | rfl | rfl := hi
  all_goals
    exact ⟨bytes_eq_of_getD fun k => h .key k rfl, h .dlen 0 rfl, fun k hk h16 =>
      State.dinByte_eq_of_regByte hk (h .din k (by simp [Instr.readsByte, hk, h16]))⟩

/-! ## Results (R46, R94) -/

/-- R94: the same result in `OUT` makes `OUT` and `OLEN` the same. -/
theorem State.setOut_regByte_congr {u u' : State} {r r' : List Byte} (hr : r = r') {q : Reg} (hq : q ≠ .status)
    (h : q ≠ .out → q ≠ .olen → ∀ k, u.regByte q k = u'.regByte q k) (k : Nat) :
    (u.setOut r).succeed.regByte q k = (u'.setOut r').succeed.regByte q k := by
  subst hr
  rw [State.succeed_regByte _ _ hq, State.succeed_regByte _ _ hq]
  by_cases hout : q = .out
  · subst hout
    refine ite_congr rfl (fun hk => ?_) fun _ => rfl
    rw [u.setOut_outByte r hk, u'.setOut_outByte r hk]
  · by_cases holen : q = .olen
    · subst holen; rfl
    · rw [u.setOut_regByte r k hout holen, u'.setOut_regByte r k hout holen]
      exact h hout holen k

/-- A command that puts the same result in `OUT`, after writing the same bytes elsewhere. -/
theorem SameResults.setOut {i : Instr} {u u' : State} {r r' : List Byte} (hi : i ≠ .rspPair ∧ i ≠ .rspReconf)
    (hstatus : Reg.status ∉ i.writes) (hr : r = r')
    (h : ∀ q ∈ i.writes, q ≠ .out → q ≠ .olen → ∀ k, u.regByte q k = u'.regByte q k) :
    SameResults i (u.setOut r).succeed (u'.setOut r').succeed :=
  ⟨rfl, fun hresp => absurd hresp (by tauto), fun _ _ q hq k =>
    State.setOut_regByte_congr hr (fun e => hstatus (e ▸ hq)) (h q hq) k⟩

/-- A command that fails with the same code. -/
theorem SameResults.failWith {i : Instr} {e : ErrorCode} (he : e ≠ .none) (hi : i ≠ .rspPair ∧ i ≠ .rspReconf) :
    SameResults i (s.failWith e) (s'.failWith e) :=
  ⟨rfl, fun hresp => absurd hresp (by tauto), fun hcode => absurd hcode he⟩

end

/-- R46, R68: the three reconfiguration packets. -/
theorem exec_reconf_sameResults {i : Instr} {s s' : State} (h : s.SameOperands i s') {p : Byte}
    (hi : (i = .reconfName ∧ p = 0x04) ∨ (i = .reconfPass ∧ p = 0x05) ∨ (i = .reconfLtk ∧ p = 0x06)) :
    ∃ t t', exec i s = .next t ∧ exec i s' = .next t' ∧ SameResults i t t' := by
  obtain ⟨hkey, hdlen, hdin⟩ := h.block (by tauto)
  refine ⟨_, _, exec_reconf s hi, exec_reconf s' hi, ?_⟩
  rw [hkey, State.inputValue_congr hdlen hdin]
  obtain ⟨rfl, -⟩ | ⟨rfl, -⟩ | ⟨rfl, -⟩ := hi
  all_goals
    exact .setOut (by decide) (by decide) rfl fun q hq ho hl => by simp [Instr.writes, ho, hl] at hq

/-- R46, R86: the two completions of `CMDPKT`. -/
theorem exec_cmdpkt_sameResults {s s' : State} (h : s.SameOperands .cmdpkt s') :
    ∃ t t', exec .cmdpkt s = .next t ∧ exec .cmdpkt s' = .next t' ∧ SameResults .cmdpkt t t' := by
  obtain ⟨hdlen, hdin⟩ := h.din (by simp)
  rcases Nat.lt_or_ge 10 s.dlen.toNat with hlt | hle
  · exact ⟨_, _, exec_cmdpkt_of_lt hlt, exec_cmdpkt_of_lt (hdlen ▸ hlt), .failWith (by decide) (by decide)⟩
  · have hkey : s.key = s'.key := bytes_eq_of_getD fun k => h .key k rfl
    have haddr : s.addr = s'.addr := bytes_eq_of_getD fun k => h .addr k rfl
    have hseq : s.seq = s'.seq := bytes_eq_of_getD fun k => h .seq k rfl
    have hdest : s.dest = s'.dest := h .dest 0 rfl
    have hopc : s.opc = s'.opc := h .opc 0 rfl
    have hnonce : s.commandNonce = s'.commandNonce := by simp only [State.commandNonce, haddr, hseq]
    have hpayload : s.commandPayload = s'.commandPayload := by
      simp only [State.commandPayload, hdest, hopc, hdlen, State.input_congr hdlen hdin]
    have hmac : s.commandChecksum = s'.commandChecksum := by
      simp only [State.commandChecksum, hkey, hnonce, hpayload]
    have hpacket : s.commandPacket = s'.commandPacket := by
      simp only [State.commandPacket, hseq, hmac, hkey, hnonce, hpayload]
    refine ⟨_, _, exec_cmdpkt_of_le hle, exec_cmdpkt_of_le (hdlen ▸ hle),
      .setOut (by decide) (by decide) hpacket fun q hq ho hl k => ?_⟩
    obtain rfl | rfl : q = .nonce ∨ q = .mac := by simpa [Instr.writes, ho, hl] using hq
    · simp only [State.regByte, hnonce]
    · simp only [State.regByte, hmac]

/-- R46, R72: the two completions of `RSP_PAIR`; where a byte of the response decides, `DLEN` counts it in. -/
theorem exec_rspPair_sameResults {s s' : State} (h : s.SameOperands .rspPair s') :
    ∃ t t', exec .rspPair s = .next t ∧ exec .rspPair s' = .next t' ∧ SameResults .rspPair t t' := by
  obtain ⟨hdlen, hdin⟩ := h.din (by simp)
  by_cases hacc : 9 ≤ s.dlen.toNat ∧ s.dinByte 0 = 0x0D
  · have hacc' : 9 ≤ s'.dlen.toNat ∧ s'.dinByte 0 = 0x0D := by
      rw [← hdlen, ← hdin 0 (by omega)]
      exact hacc
    refine ⟨_, _, execRspPair_of_accepted hacc, execRspPair_of_accepted hacc', rfl, fun _ => rfl,
      fun _ _ q hq k => ?_⟩
    obtain rfl : q = .rr := by simpa [Instr.writes] using hq
    have hrandom : s.responseRandom = s'.responseRandom := by
      ext1 j hj
      simpa [State.responseRandom] using hdin (1 + j) (by omega)
    exact congrArg (fun x : Bytes 8 => x[k]?.getD 0) hrandom
  · have hacc' : ¬ (9 ≤ s'.dlen.toNat ∧ s'.dinByte 0 = 0x0D) := fun ⟨h9, hD⟩ =>
      hacc ⟨hdlen ▸ h9, (hdin 0 (by rw [hdlen]; omega)).trans hD⟩
    by_cases hrej : 1 ≤ s.dlen.toNat ∧ s.dinByte 0 = 0x0E
    · have hrej' : 1 ≤ s'.dlen.toNat ∧ s'.dinByte 0 = 0x0E := by
        rw [← hdlen, ← hdin 0 (by omega)]
        exact hrej
      exact ⟨_, _, execRspPair_of_rejected hrej, execRspPair_of_rejected hrej', rfl, fun _ => rfl,
        fun _ hresp => absurd (hresp rfl) Resp.noConfusion⟩
    · have hrej' : ¬ (1 ≤ s'.dlen.toNat ∧ s'.dinByte 0 = 0x0E) := fun ⟨h1, hE⟩ =>
        hrej ⟨hdlen ▸ h1, (hdin 0 (by rw [hdlen]; omega)).trans hE⟩
      exact ⟨_, _, execRspPair_of_violation hacc hrej, execRspPair_of_violation hacc' hrej', rfl, fun _ => rfl,
        fun _ hresp => absurd (hresp rfl) Resp.noConfusion⟩

/-- R46: the two completions of each command on the same operands. -/
theorem exec_sameResults {i : Instr} {s s' : State} (h : s.SameOperands i s') :
    ∃ t t', exec i s = .next t ∧ exec i s' = .next t' ∧ SameResults i t t' := by
  cases i
  case encblk =>
    obtain ⟨hkey, hdlen, hdin⟩ := h.block (by simp)
    by_cases hlen : s.dlen = 16
    · have hblock : s.inputBlock = s'.inputBlock := State.inputBlock_congr (by rw [hlen]; rfl) hdin
      exact ⟨_, _, execEncblk_of_dlen_eq hlen, execEncblk_of_dlen_eq (hdlen ▸ hlen),
        .setOut (by decide) (by decide) (by rw [hkey, hblock]) fun q hq ho hl => by simp [Instr.writes, ho, hl] at hq⟩
    · exact ⟨_, _, execEncblk_of_dlen_ne hlen, execEncblk_of_dlen_ne (hdlen ▸ hlen), .failWith (by decide) (by decide)⟩
  case keymat =>
    have hkm := h.keyMaterial (by simp)
    exact ⟨_, _, exec_keymat s, exec_keymat s', .setOut (by decide) (by decide) (by rw [hkm])
      fun q hq ho hl => by simp [Instr.writes, ho, hl] at hq⟩
  case kdf =>
    have hkm := h.keyMaterial (by simp)
    have hsr : s.sr = s'.sr := bytes_eq_of_getD fun k => h .sr k rfl
    have hrr : s.rr = s'.rr := bytes_eq_of_getD fun k => h .rr k rfl
    have hkey : s.sessionKey = s'.sessionKey := by simp only [State.sessionKey, State.randomBlock, hkm, hsr, hrr]
    refine ⟨_, _, exec_kdf s, exec_kdf s', .setOut (by decide) (by decide) (by rw [hkey]) fun q hq ho hl k => ?_⟩
    obtain rfl : q = .key := by simpa [Instr.writes, ho, hl] using hq
    simp only [State.regByte, hkey]
  case pair =>
    have hkm := h.keyMaterial (by simp)
    have hsr : s.sr = s'.sr := bytes_eq_of_getD fun k => h .sr k rfl
    have htag : s.pairTag = s'.pairTag := by simp only [State.pairTag, State.paddedRandom, hkm, hsr]
    exact ⟨_, _, exec_pair s, exec_pair s', .setOut (by decide) (by decide) (by rw [hsr, htag])
      fun q hq ho hl => by simp [Instr.writes, ho, hl] at hq⟩
  case mac =>
    obtain ⟨hdlen, hdin⟩ := h.din (by simp)
    have hkey : s.key = s'.key := bytes_eq_of_getD fun k => h .key k rfl
    have hnonce : s.nonce = s'.nonce := bytes_eq_of_getD fun k => h .nonce k rfl
    have hmac : checksum s.key s.nonce s.input = checksum s'.key s'.nonce s'.input := by
      rw [hkey, hnonce, State.input_congr hdlen hdin]
    refine ⟨_, _, exec_mac s, exec_mac s', .setOut (by decide) (by decide) (by rw [hmac]) fun q hq ho hl k => ?_⟩
    obtain rfl : q = .mac := by simpa [Instr.writes, ho, hl] using hq
    simp only [State.regByte, hmac]
  case ctr =>
    obtain ⟨hdlen, hdin⟩ := h.din (by simp)
    have hkey : s.key = s'.key := bytes_eq_of_getD fun k => h .key k rfl
    have hnonce : s.nonce = s'.nonce := bytes_eq_of_getD fun k => h .nonce k rfl
    exact ⟨_, _, exec_ctr s, exec_ctr s', .setOut (by decide) (by decide)
      (by rw [hkey, hnonce, State.input_congr hdlen hdin]) fun q hq ho hl => by simp [Instr.writes, ho, hl] at hq⟩
  case cmdpkt => exact exec_cmdpkt_sameResults h
  case reconfName => exact exec_reconf_sameResults h (p := 0x04) (by simp)
  case reconfPass => exact exec_reconf_sameResults h (p := 0x05) (by simp)
  case reconfLtk => exact exec_reconf_sameResults h (p := 0x06) (by simp)
  case rspPair => exact exec_rspPair_sameResults h
  case rspReconf =>
    obtain ⟨hdlen, hdin⟩ := h.din (by simp)
    have hclass : s.reconfClass = s'.reconfClass := by
      unfold State.reconfClass
      rw [← hdlen]
      split
      · rfl
      · rw [hdin 0 (by omega)]
    exact ⟨_, _, exec_rspReconf s, exec_rspReconf s', rfl, fun _ => hclass, fun _ _ q hq => absurd hq List.not_mem_nil⟩
  case zeroize =>
    refine ⟨_, _, exec_zeroize s, exec_zeroize s', rfl, fun hresp => by simp at hresp, fun _ _ q hq k => ?_⟩
    obtain ⟨-, hstatus, -⟩ := mem_writes_zeroize_iff.mp hq
    rw [State.succeed_regByte _ _ hstatus, State.succeed_regByte _ _ hstatus, s.zeroed_regByte_of_mem k hq,
      s'.zeroed_regByte_of_mem k hq]
  case reserved00 | reserved0D | reserved0E | reserved10 | reserved20 | reserved40 | reserved80 =>
    exact ⟨_, _, rfl, rfl, .failWith (e := .badcmd) (by decide) (by simp)⟩

/-! ## What is left after `ZEROIZE` (R97) -/

/-- R97: of the registers only `OP`, `OVR` and `IE` still show. -/
theorem State.zeroed_regByte_congr {s s' : State} (hop : s.op = s'.op) (hovr : s.ovr = s'.ovr) (hie : s.ie = s'.ie)
    (r : Reg) (k : Nat) : s.zeroed.succeed.regByte r k = s'.zeroed.succeed.regByte r k := by
  by_cases hr : r ∈ Instr.writes .zeroize
  · obtain ⟨-, hstatus, -⟩ := mem_writes_zeroize_iff.mp hr
    rw [State.succeed_regByte _ _ hstatus, State.succeed_regByte _ _ hstatus, s.zeroed_regByte_of_mem k hr,
      s'.zeroed_regByte_of_mem k hr]
  · obtain rfl | rfl | rfl : r = .cmd ∨ r = .status ∨ r = .ctrl := by
      rw [mem_writes_zeroize_iff] at hr
      tauto
    · simp [State.regByte, hop]
    · simp [State.regByte, State.statusByte, State.statusLow, hovr]
    · simp [State.regByte, State.ctrlByte, hie]

/-! ## The statements -/

/-- Settles O39: each command has its own frame (`exec_framed`). -/
theorem commandsWriteOnlyTheirRegisters : Obligations.CommandsWriteOnlyTheirRegisters := by
  unfold Obligations.CommandsWriteOnlyTheirRegisters
  intro i s t ht
  obtain ⟨u, hu, hkeep, hresp⟩ := exec_framed i s
  obtain rfl := Host.Outcome.next.inj (hu.symm.trans ht)
  obtain ⟨hbusy, hdone⟩ := exec_completes ht
  exact ⟨hkeep, hbusy, hdone, hresp⟩

/-- Settles O40: each command's result is a function of the bytes it reads (`exec_sameResults`). -/
theorem commandsReadOnlyTheirOperands : Obligations.CommandsReadOnlyTheirOperands := by
  unfold Obligations.CommandsReadOnlyTheirOperands
  intro i s s' t t' h ht ht'
  obtain ⟨u, u', hu, hu', hres⟩ := exec_sameResults h
  obtain rfl := Host.Outcome.next.inj (hu.symm.trans ht)
  obtain rfl := Host.Outcome.next.inj (hu'.symm.trans ht')
  exact hres

/-- Settles O41: every byte of the window is a register's (`zeroed_regByte_congr`) or reserved. -/
theorem zeroizeForgetsEverySecret : Obligations.ZeroizeForgetsEverySecret := by
  unfold Obligations.ZeroizeForgetsEverySecret
  intro s s' t t' hop hovr hie ht ht' o
  obtain rfl := Host.Outcome.next.inj ((exec_zeroize s).symm.trans ht)
  obtain rfl := Host.Outcome.next.inj ((exec_zeroize s').symm.trans ht')
  unfold State.readByte
  split
  · exact State.zeroed_regByte_congr hop hovr hie _ _
  · rfl

end Sys2Proof.Machine

/-! PROOFS. What the cipher gives the commands (40_block_cipher.md R60, 41_key_derivation.md R66, 44_stream_cipher.md R81,
R82, 45_command_packet.md R87): nothing is lost for a fixed key, `CTR` undoes itself, and a packet shows where its data
differ. -/

namespace Sys2Proof.Machine

/-! ## `E_rev` and the session key (R60, R66) -/

/-- R8: there are finitely many byte strings of one length. -/
theorem bytes_finite (n : Nat) : Finite (Bytes n) :=
  Finite.of_injective (fun (x : Bytes n) (i : Fin n) => x[i]) fun _ _ h =>
    Vector.ext fun i hi => congrFun h ⟨i, hi⟩

/-- R65: the block of `KDF` holds both randoms whole. -/
theorem State.randomBlock_inj {s s' : State} (h : s.randomBlock = s'.randomBlock) : s.sr = s'.sr ∧ s.rr = s'.rr :=
  Vector.append_inj h

/-- Settles O47: `E_rev` is injective (`eRev_injective`), and there are finitely many blocks. -/
theorem erevIsABijection : Obligations.ErevIsABijection := by
  unfold Obligations.ErevIsABijection
  have := bytes_finite 16
  exact fun k => (eRev_injective k).bijective_of_finite

/-- Settles O48: with the same credentials both session keys are `E_rev` under one key, of different blocks. -/
theorem kdfSeparatesTheRandoms : Obligations.KdfSeparatesTheRandoms := by
  unfold Obligations.KdfSeparatesTheRandoms
  intro s s' t t' hname hnlen hpass hwlen hne ht ht' hkey
  obtain rfl := Host.Outcome.next.inj ((exec_kdf s).symm.trans ht)
  obtain rfl := Host.Outcome.next.inj ((exec_kdf s').symm.trans ht')
  have hkm : s.keyMaterial = s'.keyMaterial := by simp only [State.keyMaterial, hname, hnlen, hpass, hwlen]
  have hblock : eRev s.keyMaterial s.randomBlock = eRev s'.keyMaterial s'.randomBlock := hkey
  rw [← hkm] at hblock
  obtain ⟨hsr, hrr⟩ := State.randomBlock_inj (eRev_injective _ hblock)
  exact hne.elim (· hsr) (· hrr)

/-! ## `CTR` twice (R81, R82, program P4) -/

/-- R22: a byte of the payload. -/
theorem State.input_getD (s : State) {i : Nat} (hi : i < s.dlen.toNat) : s.input.getD i 0x00 = s.dinByte i := by
  simp [State.input, hi]

/-- R23, P4: the bytes a host copies from `OUT` are the result, when `OUT` holds one. -/
theorem State.OutIs.outBytes {t : State} {r : List Byte} (h : t.OutIs r) :
    (List.range t.olen.toNat).map t.outByte = r := by
  obtain ⟨hlen, hbyte⟩ := h
  refine List.ext_getElem (by simpa using hlen) fun i _ hi => ?_
  have h256 : i < Reg.out.size := hi.trans (hlen ▸ t.olen.isLt)
  simpa [hi] using hbyte i h256

/-- P4: the state after the host has copied `r` to `DIN`, its payload from there on when `DLEN` is its length. -/
theorem State.input_of_copied (t : State) {r : List Byte} (hlen : t.dlen.toNat = r.length) :
    { t with mem := t.mem.replace 0x100 256 r }.input = r := by
  refine List.ext_getElem (by simpa using hlen) fun i _ hi => ?_
  have h256 : i < 256 := hi.trans (hlen ▸ t.dlen.isLt)
  have hread := Memory.read_replace t.mem 0x100 256 r (0x100 + i)
  rw [if_pos ⟨by omega, by omega⟩] at hread
  simpa [State.input, State.dinByte, Reg.offset, h256, hi] using hread

/-- Settles O52: the second `CTR` encrypts the first one's output under the same key and nonce (`crypt_crypt`). -/
theorem ctrTwiceGivesThePayloadBack : Obligations.CtrTwiceGivesThePayloadBack := by
  unfold Obligations.CtrTwiceGivesThePayloadBack
  intro s t u ht hu i hi
  obtain rfl := Host.Outcome.next.inj ((exec_ctr s).symm.trans ht)
  have hlen : (crypt s.key s.nonce s.input).length = s.dlen.toNat := by simp
  have hout := s.setOut_outIs (crypt s.key s.nonce s.input) (hlen.trans_lt s.dlen.isLt)
  have hcopied := State.input_of_copied (s.setOut (crypt s.key s.nonce s.input)).succeed hlen.symm
  rw [hout.outBytes] at hu
  obtain rfl := Host.Outcome.next.inj ((exec_ctr _).symm.trans hu)
  have hi256 : i < Reg.out.size := hi.trans s.dlen.isLt
  rw [State.succeed_outByte, State.setOut_outByte _ _ hi256, hcopied]
  exact (congrArg (·.getD i 0x00) (crypt_crypt s.key s.nonce s.input)).trans (s.input_getD hi)

/-! ## Packets that differ in one byte of data (R85, R87) -/

/-- R84: the payload byte by byte: five bytes of header, the data, zeros. -/
theorem State.commandPayload_getD (s : State) (m : Nat) :
    s.commandPayload.getD m 0x00 =
      if m < 5 then [s.dest, 0x00, s.opc, 0x60, 0x01].getD m 0x00
      else if m < 5 + s.dlen.toNat then s.dinByte (m - 5) else 0x00 := by
  rw [State.commandPayload, List.append_assoc]
  rcases Nat.lt_or_ge m 5 with hhead | hge
  · rw [if_pos hhead, List.getD_append _ _ _ _ hhead]
  · rw [if_neg (Nat.not_lt.mpr hge), List.getD_append_right _ _ _ _ hge]
    change (s.input ++ _).getD (m - 5) 0x00 = _
    rcases Nat.lt_or_ge m (5 + s.dlen.toNat) with hdata | hpad
    · rw [if_pos hdata, List.getD_append _ _ _ _ (by rw [State.input_length]; omega), s.input_getD (by omega)]
    · rw [if_neg (Nat.not_lt.mpr hpad), List.getD_append_right _ _ _ _ (by rw [State.input_length]; omega),
        List.getD_eq_getElem?_getD]
      exact List.getElem?_getD_replicate_default_eq _ _ _

/-- R85: the first three bytes of a packet are the sequence. -/
theorem State.commandPacket_getD_seq (s : State) {j : Nat} (hj : j < 3) :
    s.commandPacket.getD j 0x00 = s.seq.toList.getD j 0x00 := by
  rw [State.commandPacket, List.append_assoc, List.getD_append _ _ _ _ (by simpa using hj)]

/-- R85, R79: from byte 5 on a packet is the encrypted payload. -/
theorem State.commandPacket_getD_cipher {s : State} (hd : s.dlen.toNat ≤ 10) {m : Nat} (hm : m < 15) :
    s.commandPacket.getD (5 + m) 0x00 =
      s.commandPayload.getD m 0x00 ^^^ keystreamByte s.key s.commandNonce m := by
  have hhead : (s.seq.toList ++ s.commandChecksum.toList.take 2).length = 5 := by simp
  rw [State.commandPacket, List.getD_append_right _ _ _ _ (by omega), hhead, Nat.add_sub_cancel_left]
  exact crypt_getD _ _ (by rw [State.commandPayload_length hd]; exact hm)

/-- R86: the packet in `OUT`. -/
theorem outByte_of_cmdpkt {s t : State} (hd : s.dlen.toNat ≤ 10) (ht : exec .cmdpkt s = .next t) {j : Nat} (hj : j < 20) :
    t.outByte j = s.commandPacket.getD j 0x00 := by
  obtain rfl := Host.Outcome.next.inj ((exec_cmdpkt_of_le hd).symm.trans ht)
  exact State.setOut_outByte _ _ (hj.trans (by decide))

/-- R87: one keystream byte drops out of the XOR of two encrypted bytes. -/
theorem xor_xor_xor_cancel_right (a b k : Byte) : (a ^^^ k) ^^^ (b ^^^ k) = a ^^^ b := by
  rw [BitVec.xor_comm b k, BitVec.xor_assoc, ← BitVec.xor_assoc k k, BitVec.xor_self, BitVec.zero_xor]

/-- Settles O53: both packets are encrypted with one keystream, so a packet byte differs exactly as the payload does
(`commandPacket_getD_cipher`), and the payloads differ at byte `5 + i` alone. -/
theorem packetsDifferOnlyAtTheChangedByte : Obligations.PacketsDifferOnlyAtTheChangedByte := by
  unfold Obligations.PacketsDifferOnlyAtTheChangedByte
  intro s s' t t' i hkey haddr hseq hdest hopc hdlen hd hi hdin ht ht'
  have hd' : s'.dlen.toNat ≤ 10 := hdlen ▸ hd
  have hnonce : s.commandNonce = s'.commandNonce := by simp only [State.commandNonce, haddr, hseq]
  have hpayload (m : Nat) (hm : m ≠ 5 + i) : s.commandPayload.getD m 0x00 = s'.commandPayload.getD m 0x00 := by
    rw [s.commandPayload_getD, s'.commandPayload_getD, hdest, hopc, ← hdlen]
    refine ite_congr rfl (fun _ => rfl) fun hge => ite_congr rfl (fun hlt => ?_) fun _ => rfl
    exact hdin (m - 5) (by omega) (by omega)
  have hdata (u : State) (hu : u.dlen = s.dlen) : u.commandPayload.getD (5 + i) 0x00 = u.dinByte i := by
    rw [u.commandPayload_getD, if_neg (by omega), if_pos (by rw [hu]; omega), Nat.add_sub_cancel_left]
  refine ⟨fun j hj hwhere => ?_, ?_⟩
  · rw [outByte_of_cmdpkt hd ht hj, outByte_of_cmdpkt hd' ht' hj]
    rcases hwhere with h3 | ⟨h5, hne⟩
    · rw [s.commandPacket_getD_seq h3, s'.commandPacket_getD_seq h3, hseq]
    · obtain ⟨m, rfl⟩ : ∃ m, j = 5 + m := ⟨j - 5, by omega⟩
      rw [State.commandPacket_getD_cipher hd (by omega), State.commandPacket_getD_cipher hd' (by omega), hkey, hnonce,
        hpayload m (by omega)]
  · have hbyte : 10 + i = 5 + (5 + i) := by omega
    rw [outByte_of_cmdpkt hd ht (by omega), outByte_of_cmdpkt hd' ht' (by omega), hbyte,
      State.commandPacket_getD_cipher hd (by omega), State.commandPacket_getD_cipher hd' (by omega), hkey, hnonce,
      hdata s rfl, hdata s' hdlen.symm, xor_xor_xor_cancel_right]

end Sys2Proof.Machine

/-! PROOFS. Several engines on a platform (20_memory.md R25, R26, 60_exceptions.md R109): which engine an access reaches,
and that no other changes. -/

namespace Sys2Proof.Machine

/-! ## One engine of the list -/

/-- R26: an address that no byte of the window has. -/
theorem PlatformEngine.covers_eq_false {e : PlatformEngine} {a : Nat} (h : a < e.base ∨ e.base + 1024 ≤ a) :
    e.covers a = false := by
  simp only [PlatformEngine.covers, Config.windowSize, Bool.and_eq_false_iff, decide_eq_false_iff_not]
  omega

/-- R25: the address of an offset of the window. -/
theorem PlatformEngine.covers_base_add (e : PlatformEngine) {off : Nat} (h : off < 1024) :
    e.covers (e.base + off) = true := by
  simp [PlatformEngine.covers, h]

section
variable {e : PlatformEngine} {a : Nat} (p : Platform) (n : Nat) (v : Word32)

theorem Platform.write_cons_of_covers (h : e.covers a = true) :
    Platform.write (e :: p) a n v =
      ({ e with engine := (e.engine.hostWrite (a - e.base) n v).1 } :: p, (e.engine.hostWrite (a - e.base) n v).2) :=
  if_pos h

theorem Platform.write_cons_of_not_covers (h : e.covers a = false) :
    Platform.write (e :: p) a n v = (e :: (Platform.write p a n v).1, (Platform.write p a n v).2) :=
  if_neg (Bool.eq_false_iff.mp h)

theorem Platform.read_cons_of_covers (h : e.covers a = true) :
    Platform.read (e :: p) a n = e.engine.hostRead (a - e.base) n := if_pos h

theorem Platform.read_cons_of_not_covers (h : e.covers a = false) :
    Platform.read (e :: p) a n = Platform.read p a n := if_neg (Bool.eq_false_iff.mp h)

end

/-! ## The list of engines -/

section
variable (p : Platform) {a : Nat} (n : Nat) (v : Word32)

theorem Platform.write_length : (p.write a n v).1.length = p.length := by
  induction p with
  | nil => rfl
  | cons d p ih =>
    cases hd : d.covers a with
    | true => rw [Platform.write_cons_of_covers p n v hd]; rfl
    | false => rw [Platform.write_cons_of_not_covers p n v hd]; exact congrArg (· + 1) ih

/-- R109: an engine whose window does not hold the address stays as it is. -/
theorem Platform.write_getElem?_of_not_covers {k : Nat} {e : PlatformEngine} (he : p[k]? = some e)
    (h : e.covers a = false) : (p.write a n v).1[k]? = some e := by
  induction p generalizing k with
  | nil => simp at he
  | cons d p ih =>
    cases hd : d.covers a with
    | true =>
      rw [Platform.write_cons_of_covers p n v hd]
      cases k with
      | zero =>
        obtain rfl : d = e := by simpa using he
        simp [hd] at h
      | succ k => simpa using he
    | false =>
      rw [Platform.write_cons_of_not_covers p n v hd]
      cases k with
      | zero => simpa using he
      | succ k => simpa using ih (k := k) (by simpa using he)

/-- R25, R26: engines whose windows do not hold the address pass the access on. -/
theorem Platform.access_append (q : Platform) (h : ∀ d ∈ p, d.covers a = false) :
    Platform.write (p ++ q) a n v = (p ++ (Platform.write q a n v).1, (Platform.write q a n v).2) ∧
      Platform.read (p ++ q) a n = Platform.read q a n := by
  induction p with
  | nil => exact ⟨rfl, rfl⟩
  | cons d p ih =>
    obtain ⟨hw, hr⟩ := ih fun e he => h e (List.mem_cons_of_mem d he)
    have hd := h d List.mem_cons_self
    rw [List.cons_append, Platform.write_cons_of_not_covers _ n v hd, Platform.read_cons_of_not_covers _ n hd, hw, hr]
    exact ⟨rfl, rfl⟩

end

/-! ## Completions (R109) -/

/-- R91: the completion of a busy engine. -/
theorem Platform.complete_of_busy {p : Platform} {k : Nat} {e : PlatformEngine} {t : State} (he : p[k]? = some e)
    (hb : e.engine.busy = true) (ht : exec (decodeOp e.engine.op) e.engine = .next t) :
    p.complete k = p.set k { e with engine := t } := by
  have ht' : exec e.engine.command e.engine = .next t := ht
  simp only [Platform.complete, he, hb, if_true, ht']

theorem Platform.complete_of_idle {p : Platform} {k : Nat} {e : PlatformEngine} (he : p[k]? = some e)
    (hb : e.engine.busy = false) : p.complete k = p := by
  simp only [Platform.complete, he, hb, Bool.false_eq_true, if_false]

theorem Platform.complete_of_none {p : Platform} {k : Nat} (he : p[k]? = none) : p.complete k = p := by
  simp only [Platform.complete, he]

/-- R109: a completion changes no other engine. -/
theorem Platform.complete_getElem?_of_ne (p : Platform) {j k : Nat} (h : j ≠ k) : (p.complete k)[j]? = p[j]? := by
  cases he : p[k]? with
  | none => rw [Platform.complete_of_none he]
  | some e =>
    cases hb : e.engine.busy with
    | false => rw [Platform.complete_of_idle he hb]
    | true =>
      obtain ⟨t, ht⟩ := exec_next (decodeOp e.engine.op) e.engine
      rw [Platform.complete_of_busy he hb ht, List.getElem?_set_ne h.symm]

/-! ## The statements -/

/-- Settles O54: an access passes the engines before the one it reaches (`access_append`) and acts there alone; a
completion replaces one engine of the list. -/
theorem enginesDoNotInterfere : Obligations.EnginesDoNotInterfere := by
  unfold Obligations.EnginesDoNotInterfere
  refine ⟨fun p a n v => ⟨p.write_length n v, fun k e he h => p.write_getElem?_of_not_covers n v he h⟩,
    fun p j k h => p.complete_getElem?_of_ne h, fun p q e off n v hoff h => ?access, fun p k e he =>
    ⟨fun hb => ?busy, fun hb => Platform.complete_of_idle he hb⟩⟩
  case access =>
    obtain ⟨hw, hr⟩ := p.access_append n v (e :: q) fun d hd => PlatformEngine.covers_eq_false (h d hd)
    have hcovers := e.covers_base_add hoff
    rw [hw, hr, Platform.write_cons_of_covers q n v hcovers, Platform.read_cons_of_covers q n hcovers,
      Nat.add_sub_cancel_left]
    exact ⟨rfl, rfl⟩
  case busy =>
    obtain ⟨t, ht⟩ := exec_next (decodeOp e.engine.op) e.engine
    obtain ⟨hk, -⟩ := List.getElem?_eq_some_iff.mp he
    exact ⟨t, ht, by rw [Platform.complete_of_busy he hb ht, List.getElem?_set_self hk]⟩

/-- Settles O55: every engine passes the access on (`access_append`), and then none is left. -/
theorem accessOutsideEveryWindowReachesNoEngine : Obligations.AccessOutsideEveryWindowReachesNoEngine := by
  unfold Obligations.AccessOutsideEveryWindowReachesNoEngine
  intro p a n v h
  have haccess := p.access_append n v [] fun e he => PlatformEngine.covers_eq_false (h e he)
  rw [List.append_nil] at haccess
  exact ⟨haccess.1.trans (congrArg (·, BusAnswer.notReached) p.append_nil), haccess.2⟩

end Sys2Proof.Machine
